-- ==== Sys2Proof/Word.lean ====
section
/-! DEFINITION. The word types of pixel_codec and its two plain records: an unpacked pixel and a cell coordinate. -/

namespace Sys2Proof

/-- A 32-bit register value, command word or PixelWord (spec 00_scope.md R6, 20_memory.md R51). -/
abbrev Word := BitVec 32

/-- A coordinate, a dimension or a border field: COORD_BITS = 16 (R6). -/
abbrev Half := BitVec 16

/-- One channel of a pixel: CHANNEL_BITS = 8 (R6). -/
abbrev Byte := BitVec 8

/-- The UnpackedPixel: four 8-bit fields (10_state.md R24, 41_codec.md R117). -/
structure Pixel where
  a : Byte
  b : Byte
  c : Byte
  m : Byte
  deriving DecidableEq, Repr

/-- A cell (x, y) of the image (00_scope.md R12). Coordinates are mathematical integers here; that they lie
in the image is a check (43_image.md R160) or an invariant, never a truncation. -/
structure Coord where
  x : Nat
  y : Nat
  deriving DecidableEq, Repr

end Sys2Proof
end

