-- ==== Sys2Proof/Syntax.lean ====
section
/-! DEFINITION. The command set PXC-1: one constructor of `Instr` for each row of spec/opcode_table.json
(30_encoding.md R78), with exactly the operand fields of R77. Coordinates, dimensions and pixel values are no
command fields: a command takes them from registers (R77). -/

namespace Sys2Proof

/-- The colour-space tag and the SP field: 0 = RGB, 1 = HSV (30_encoding.md R77). -/
inductive Space where
  | rgb
  | hsv
  deriving DecidableEq, Repr

/-- The kernels of 30_encoding.md R79. -/
inductive Kernel where
  | host       -- 0x00: the host performs the callback at each cell
  | kRgb2hsv   -- 0x01
  | kHsv2rgb   -- 0x02
  deriving DecidableEq, Repr

/-- The 17 commands of 30_encoding.md R78. KERNEL is kept as its 8-bit field: 0x03 to 0xFF are illegal (R81),
which `Instr.wellFormed` checks. -/
inductive Instr where
  | nop
  | unpack
  | pack
  | rgb2hsv
  | hsv2rgb
  | construct (sp : Space)
  | get
  | set
  | access
  | foreach (kernel : Byte)
  | foreachIdx (kernel : Byte) (border : Half)
  | foreachBor (kernel : Byte) (border : Half)
  | convert (sp : Space)
  | hostDone
  | checkadj (tgt sec : Byte)
  | erode (tgt dflt : Byte)
  | dilate (tgt : Byte)
  deriving DecidableEq, Repr

end Sys2Proof
end

