-- ==== Sys2Proof/WellFormed.lean ====
section
/-! DEFINITION. The one well-formedness check of a command that its field widths do not make for it: KERNEL must
be 0, 1 or 2 (30_encoding.md R79, R81; the notes of the FOREACH rows of spec/opcode_table.json). -/

namespace Sys2Proof

/-- KERNEL names a kernel of R79. -/
def kernelDefined (k : Byte) : Bool := decide (k.toNat ≤ 2)

/-- A command that some word of R78 to R81 encodes. -/
def Instr.wellFormed : Instr → Bool
  | .nop => true
  | .unpack => true
  | .pack => true
  | .rgb2hsv => true
  | .hsv2rgb => true
  | .construct _ => true
  | .get => true
  | .set => true
  | .access => true
  | .foreach k => kernelDefined k
  | .foreachIdx k _ => kernelDefined k
  | .foreachBor k _ => kernelDefined k
  | .convert _ => true
  | .hostDone => true
  | .checkadj _ _ => true
  | .erode _ _ => true
  | .dilate _ => true

end Sys2Proof
end

