-- ==== Sys2Proof/Decode.lean ====
section
/-! DEFINITION. Decoding a command word (30_encoding.md R75 to R83), total on every 32-bit word and rejecting by
name; the encoder, from the same formats (R76, R85); and the opcode table as match and mask rows. A command is ONE
32-bit word: it is written to CMD as a value and never stored in bytes (20_memory.md R56, R67), so there is no byte
order to decode and no length to find. -/

namespace Sys2Proof

/-- Why a word is illegal (30_encoding.md R81). The device reports all three as ILLEGAL_COMMAND (60_exceptions.md R226). -/
inductive DecodeError where
  | undefinedOpcode   -- OPC is not in the opcode map of R78
  | reservedBits      -- a must-be-zero field of R76 is not zero
  | undefinedKernel   -- KERNEL is 0x03 to 0xFF
  deriving DecidableEq, Repr

/-- OPC, bits 31:24 (R75). -/
def opcField (w : Word) : Byte := w.extractLsb' 24 8

/-- KERNEL, bits 23:16 (R77). -/
def kernelField (w : Word) : Byte := w.extractLsb' 16 8

/-- BORDER, bits 15:0 (R77). -/
def borderField (w : Word) : Half := w.extractLsb' 0 16

/-- TGT, bits 15:8 (R77). -/
def tgtField (w : Word) : Byte := w.extractLsb' 8 8

/-- SEC of CHECKADJ and DEF of ERODE, bits 7:0 (R77). -/
def lowField (w : Word) : Byte := w.extractLsb' 0 8

/-- SP, bit 0 (R77): 0 = RGB, 1 = HSV. -/
def spField (w : Word) : Space := if w.extractLsb' 0 1 = 1#1 then .hsv else .rgb

/-- Format N: bits 23:0 are zero (R76). -/
def formatN (w : Word) (i : Instr) : Except DecodeError Instr :=
  if w.extractLsb' 0 24 = 0#24 then .ok i else .error .reservedBits

/-- Format S: bits 23:1 are zero, bit 0 is SP (R76). -/
def formatS (w : Word) (mk : Space → Instr) : Except DecodeError Instr :=
  if w.extractLsb' 1 23 = 0#23 then .ok (mk (spField w)) else .error .reservedBits

/-- Format K: KERNEL in bits 23:16, bits 15:0 are zero (R76, R81). -/
def formatK (w : Word) (mk : Byte → Instr) : Except DecodeError Instr :=
  if kernelDefined (kernelField w) = false then .error .undefinedKernel
  else if w.extractLsb' 0 16 = 0#16 then .ok (mk (kernelField w)) else .error .reservedBits

/-- Format KB: KERNEL in bits 23:16, BORDER in bits 15:0 (R76, R81). -/
def formatKB (w : Word) (mk : Byte → Half → Instr) : Except DecodeError Instr :=
  if kernelDefined (kernelField w) = false then .error .undefinedKernel
  else .ok (mk (kernelField w) (borderField w))

/-- Format TT: bits 23:16 are zero, TGT in 15:8, SEC or DEF in 7:0 (R76). -/
def formatTT (w : Word) (mk : Byte → Byte → Instr) : Except DecodeError Instr :=
  if w.extractLsb' 16 8 = 0#8 then .ok (mk (tgtField w) (lowField w)) else .error .reservedBits

/-- Format T: bits 23:16 and 7:0 are zero, TGT in 15:8 (R76). -/
def formatT (w : Word) (mk : Byte → Instr) : Except DecodeError Instr :=
  if w.extractLsb' 16 8 = 0#8 ∧ w.extractLsb' 0 8 = 0#8 then .ok (mk (tgtField w)) else .error .reservedBits

/-- `Decode(w)` (R80): it reads the word and nothing else. -/
def decode (w : Word) : Except DecodeError Instr :=
  if opcField w = 0x00#8 then formatN w .nop
  else if opcField w = 0x01#8 then formatN w .unpack
  else if opcField w = 0x02#8 then formatN w .pack
  else if opcField w = 0x03#8 then formatN w .rgb2hsv
  else if opcField w = 0x04#8 then formatN w .hsv2rgb
  else if opcField w = 0x10#8 then formatS w .construct
  else if opcField w = 0x11#8 then formatN w .get
  else if opcField w = 0x12#8 then formatN w .set
  else if opcField w = 0x13#8 then formatN w .access
  else if opcField w = 0x20#8 then formatK w .foreach
  else if opcField w = 0x21#8 then formatKB w .foreachIdx
  else if opcField w = 0x22#8 then formatKB w .foreachBor
  else if opcField w = 0x23#8 then formatS w .convert
  else if opcField w = 0x2F#8 then formatN w .hostDone
  else if opcField w = 0x30#8 then formatTT w .checkadj
  else if opcField w = 0x31#8 then formatTT w .erode
  else if opcField w = 0x32#8 then formatT w .dilate
  else .error .undefinedOpcode

/-- The instruction the decoder reads from the `nbits` low bits of `w`, every higher bit of the command word being 0.
The opcode table gives each row all 32 bits; a row of more bits is none of this machine's. -/
def decodeTableWord (nbits w : Nat) : Option Instr :=
  if nbits ≤ 32 then (decode (BitVec.ofNat 32 (w % 2 ^ nbits))).toOption else none

/-- The SP bit of a colour space (R77). -/
def spBit : Space → BitVec 1
  | .rgb => 0#1
  | .hsv => 1#1

/-- The word a command assembles to (R85), each format laid out as R76 gives it. -/
def encode : Instr → Word
  | .nop => 0x00#8 ++ 0#24
  | .unpack => 0x01#8 ++ 0#24
  | .pack => 0x02#8 ++ 0#24
  | .rgb2hsv => 0x03#8 ++ 0#24
  | .hsv2rgb => 0x04#8 ++ 0#24
  | .construct sp => 0x10#8 ++ 0#23 ++ spBit sp
  | .get => 0x11#8 ++ 0#24
  | .set => 0x12#8 ++ 0#24
  | .access => 0x13#8 ++ 0#24
  | .foreach k => 0x20#8 ++ k ++ 0#16
  | .foreachIdx k b => 0x21#8 ++ k ++ b
  | .foreachBor k b => 0x22#8 ++ k ++ b
  | .convert sp => 0x23#8 ++ 0#23 ++ spBit sp
  | .hostDone => 0x2F#8 ++ 0#24
  | .checkadj t s => 0x30#8 ++ 0#8 ++ t ++ s
  | .erode t d => 0x31#8 ++ 0#8 ++ t ++ d
  | .dilate t => 0x32#8 ++ 0#8 ++ t ++ 0#8

/-- One row of spec/opcode_table.json. -/
structure OpcodeRow where
  mnemonic : String
  pattern : Word
  mask : Word
  hasKernel : Bool
  deriving DecidableEq, Repr

/-- spec/opcode_table.json, row for row: mnemonic, match, mask, and whether the row's note restricts KERNEL. -/
def opcodeTable : List OpcodeRow := [
  ⟨"NOP", 0x00000000#32, 0xFFFFFFFF#32, false⟩,
  ⟨"UNPACK", 0x01000000#32, 0xFFFFFFFF#32, false⟩,
  ⟨"PACK", 0x02000000#32, 0xFFFFFFFF#32, false⟩,
  ⟨"RGB2HSV", 0x03000000#32, 0xFFFFFFFF#32, false⟩,
  ⟨"HSV2RGB", 0x04000000#32, 0xFFFFFFFF#32, false⟩,
  ⟨"CONSTRUCT", 0x10000000#32, 0xFFFFFFFE#32, false⟩,
  ⟨"GET", 0x11000000#32, 0xFFFFFFFF#32, false⟩,
  ⟨"SET", 0x12000000#32, 0xFFFFFFFF#32, false⟩,
  ⟨"ACCESS", 0x13000000#32, 0xFFFFFFFF#32, false⟩,
  ⟨"FOREACH", 0x20000000#32, 0xFF00FFFF#32, true⟩,
  ⟨"FOREACH_IDX", 0x21000000#32, 0xFF000000#32, true⟩,
  ⟨"FOREACH_BOR", 0x22000000#32, 0xFF000000#32, true⟩,
  ⟨"CONVERT", 0x23000000#32, 0xFFFFFFFE#32, false⟩,
  ⟨"HOST_DONE", 0x2F000000#32, 0xFFFFFFFF#32, false⟩,
  ⟨"CHECKADJ", 0x30000000#32, 0xFFFF0000#32, false⟩,
  ⟨"ERODE", 0x31000000#32, 0xFFFF0000#32, false⟩,
  ⟨"DILATE", 0x32000000#32, 0xFFFF00FF#32, false⟩]

/-- A word fits a row: the row's match under its mask, and KERNEL at most 2 where the row's note says so. -/
def OpcodeRow.fits (r : OpcodeRow) (w : Word) : Bool :=
  decide (w &&& r.mask = r.pattern) && (!r.hasKernel || kernelDefined (kernelField w))

/-- The mnemonic of a command, as the opcode table spells it. -/
def Instr.mnemonic : Instr → String
  | .nop => "NOP"
  | .unpack => "UNPACK"
  | .pack => "PACK"
  | .rgb2hsv => "RGB2HSV"
  | .hsv2rgb => "HSV2RGB"
  | .construct _ => "CONSTRUCT"
  | .get => "GET"
  | .set => "SET"
  | .access => "ACCESS"
  | .foreach _ => "FOREACH"
  | .foreachIdx _ _ => "FOREACH_IDX"
  | .foreachBor _ _ => "FOREACH_BOR"
  | .convert _ => "CONVERT"
  | .hostDone => "HOST_DONE"
  | .checkadj _ _ => "CHECKADJ"
  | .erode _ _ => "ERODE"
  | .dilate _ => "DILATE"

end Sys2Proof
end

