-- ==== Sys2Proof/Config.lean ====
section
/-! DEFINITION. What the hardware instance fixes. The spec leaves exactly one parameter open: PIXEL_CAPACITY
(00_scope.md R6). Every other parameter of R6 has a value in the spec and stands where it is used. -/

namespace Sys2Proof.Config

/-- PIXEL_CAPACITY, the number of PixelWords the image store holds (R6, R29): any integer from 0 to 2^32 − 1.
It has no body, so no proof can lean on a value of it (log entry 3). -/
opaque pixelCapacity : Word

end Sys2Proof.Config
end

