-- ==== Sys2Proof/Machine/State.lean ====
section
/-! DEFINITION. The state of pixel_codec as plain data: every register of the window (10_state.md R21), every field of
STATUS (R30), the image store (R38), the traversal engine's state (R39), the mask snapshot buffer (R40), and the
model's own two fields for the host's side of the bus. STATUS.CALLBACK and STATUS.TMODE are stored once, as
trav.active and trav.mode, which R39 says they equal (log entry 7). -/

namespace Sys2Proof.Machine

/-- The error codes of 60_exceptions.md R226, by name. Their numbers are `ErrCode.code` (Flags.lean). -/
inductive ErrCode where
  | none
  | illegalCommand
  | badRegister
  | regRange
  | channelRange
  | notConstructed
  | alreadyConstructed
  | dimLocked
  | capacity
  | coordRange
  | sentinelCollision
  | callbackViolation
  deriving DecidableEq, Repr

/-- The mode of a suspended traversal: TMODE 0, 1 and 2; 3 never occurs (10_state.md R30, R39). -/
inductive TravMode where
  | foreach
  | foreachIdx
  | foreachBor
  deriving DecidableEq, Repr

/-- The traversal engine's state (10_state.md R39). `active` is STATUS.CALLBACK and `mode` is STATUS.TMODE. -/
structure Trav where
  active : Bool
  mode : TravMode
  cells : List Coord
  index : Nat
  deriving DecidableEq, Repr

/-- What the outside world can do to the device: the host's two accesses (40_host_interface.md R100), each naming a
byte offset 0x00 to 0xFF, and the external reset event (70_reset_and_hazards.md R255). -/
inductive HostEvent where
  | read (off : BitVec 8)
  | write (off : BitVec 8) (v : Word)
  | reset
  deriving DecidableEq, Repr

/-- Stored bytes by address, in one canonical form: addresses strictly rising, no entry 0x00 (what an unlisted
address reads as). `Memory.wf` (Ops.lean) says so. -/
abbrev Memory := List Host.Cell

/-- The machine's state. Reset values are in `State.reset`. -/
structure State where
  /-- STATUS.FAULT (R30, R31). -/
  fault : Bool
  /-- STATUS.ERRCODE (R30, R226). -/
  errcode : ErrCode
  /-- STATUS.CONSTRUCTED (R30, R32). -/
  constructed : Bool
  /-- STATUS.SPACE (R30, R33). -/
  space : Space
  /-- WORD, offset 0x08 (R23). -/
  word : Word
  /-- CH_A, offset 0x0C (R24). -/
  chA : Byte
  /-- CH_B, offset 0x10 (R24). -/
  chB : Byte
  /-- CH_C, offset 0x14 (R24). -/
  chC : Byte
  /-- CH_M, offset 0x18 (R24). -/
  chM : Byte
  /-- X, offset 0x1C (R25). -/
  x : Half
  /-- Y, offset 0x20 (R25). -/
  y : Half
  /-- WIDTH, offset 0x24 (R26). -/
  width : Half
  /-- HEIGHT, offset 0x28 (R26). -/
  height : Half
  /-- CUR_X, offset 0x2C (R27). -/
  curX : Half
  /-- CUR_Y, offset 0x30 (R27). -/
  curY : Half
  /-- COUNT, offset 0x34, 4 bits (R28). -/
  count : BitVec 4
  /-- CAPACITY, offset 0x38: PIXEL_CAPACITY, a constant of the instance (R29). -/
  capacity : Word
  /-- The traversal engine's state (R39); STATUS.CALLBACK and STATUS.TMODE (R34). -/
  trav : Trav
  /-- The image store (R38, R53): byte 4·i + l is lane l of store word i (log entry 6). -/
  store : Memory
  /-- The mask snapshot buffer (R40): byte i is the snapshot of word i's Mask. -/
  snap : Memory
  /-- The MODEL's own: the accesses the host has yet to make, in program order (log entry 1). -/
  bus : List HostEvent
  /-- The MODEL's own: what the host's last read returned; `none` while it has read nothing (log entry 2). -/
  readData : Option Word
  deriving DecidableEq, Repr

/-- The machine right after reset (70_reset_and_hazards.md R255). The store and the snapshot are unspecified there and
list nothing here (log entries 4 and 5); CAPACITY is PIXEL_CAPACITY; no host access is pending. -/
def State.reset : State where
  fault := false
  errcode := .none
  constructed := false
  space := .rgb
  word := 0
  chA := 0
  chB := 0
  chC := 0
  chM := 0
  x := 0
  y := 0
  width := 0
  height := 0
  curX := 0
  curY := 0
  count := 0
  capacity := Config.pixelCapacity
  trav := ⟨false, .foreach, [], 0⟩
  store := []
  snap := []
  bus := []
  readData := .none

/-- Why the machine stops. A contract violation of the spec is NOT one of these: it latches STATUS.FAULT and the
machine goes on (60_exceptions.md R225). -/
inductive Fault where
  /-- Raised by HOST_DONE alone, when a traversal is suspended and the traversal state names no cell of a constructed
  image: `trav.cells[trav.index]` does not exist, or it or the next cell lies where 20_memory.md R53 defines no
  store word. R177 to R179 keep every run from reset out of such states. Safe: it stops (log entry 8). -/
  | undefinedCell
  deriving DecidableEq, Repr

/-- Why an instruction has no meaning. -/
inductive Refusal where
  /-- Raised by `exec` for an instruction whose meaning is not written yet; no arm answers it now. Safe: it stops. -/
  | notModelled (mnemonic : String)
  deriving DecidableEq, Repr

end Sys2Proof.Machine
end

