-- ==== Sys2Proof/Machine/Ops.lean ====
section
/-! DEFINITION. The shared operations: stored bytes and words, the cells of the image, the fault latch (taking an
exception) and the only way out of it (reset), and the ordered checks every command makes before its effect. -/

namespace Sys2Proof.Machine

/-! ### Bytes and words of a store -/

/-- What an address that is not listed reads as (log entries 4 and 5). -/
def unlistedByte : Byte := 0x00#8

/-- The canonical form of a store: addresses strictly rising, and no entry equal to what an unlisted address reads as. -/
abbrev Memory.wf (m : Memory) : Prop :=
  m.Pairwise (fun c d => c.1 < d.1) ∧ ∀ c ∈ m, c.2 ≠ unlistedByte

/-- The byte at an address. -/
def Memory.readByte : Memory → Nat → Byte
  | [], _ => unlistedByte
  | (k, v) :: m, a => if k = a then v else Memory.readByte m a

/-- The store without an entry for address `a`. -/
def Memory.erase (m : Memory) (a : Nat) : Memory := m.filter (fun c => decide (c.1 ≠ a))

/-- The store with an entry for address `a`, placed in order. -/
def Memory.insert : Memory → Nat → Byte → Memory
  | [], a, v => [(a, v)]
  | (k, w) :: m, a, v => if a < k then (a, v) :: (k, w) :: m else (k, w) :: Memory.insert m a v

/-- Write one byte; writing what an unlisted address reads as removes the entry. -/
def Memory.writeByte (m : Memory) (a : Nat) (v : Byte) : Memory :=
  if v = unlistedByte then m.erase a else (m.erase a).insert a v

/-- `MemRead(i, 4)` (20_memory.md R53): the four lanes of word `i` (41_codec.md R117), lane l at byte 4·i + l. -/
def Memory.readWord (m : Memory) (i : Nat) : Word :=
  m.readByte (4 * i + 3) ++ m.readByte (4 * i + 2) ++ m.readByte (4 * i + 1) ++ m.readByte (4 * i)

/-- `MemWrite(i, 4, v)` (20_memory.md R53): all four lanes of word `i`; the store has no narrower write. -/
def Memory.writeWord (m : Memory) (i : Nat) (v : Word) : Memory :=
  (((m.writeByte (4 * i) (v.extractLsb' 0 8)).writeByte (4 * i + 1) (v.extractLsb' 8 8)).writeByte
    (4 * i + 2) (v.extractLsb' 16 8)).writeByte (4 * i + 3) (v.extractLsb' 24 8)

/-- CONSTRUCT's loop `for i in 0 .. n-1: MemWrite(i, 4, 0)` (43_image.md R155), done at once: no entry of the first
`n` words is left. Laws/Memory.lean proves it equal to the loop. -/
def Memory.zeroWords (m : Memory) (n : Nat) : Memory := m.filter (fun c => decide (4 * n ≤ c.1))

/-! ### Cells of the image -/

/-- The store word of cell (x, y): y · WIDTH + x (20_memory.md R54). -/
def cellIndex (width : Nat) (p : Coord) : Nat := p.y * width + p.x

/-- The store word of a cell of this machine's image. -/
def State.cellIndex (s : State) (p : Coord) : Nat := Machine.cellIndex s.width.toNat p

/-- `InImage(x, y)` (43_image.md R160). -/
def State.inImage (s : State) (p : Coord) : Bool :=
  decide (p.x < s.width.toNat) && decide (p.y < s.height.toNat)

/-- A cell whose 3×3 neighbourhood lies inside the image: 1 ≤ x ≤ WIDTH−2 and 1 ≤ y ≤ HEIGHT−2 (45_morphology.md R200). -/
def State.interior (s : State) (p : Coord) : Bool :=
  decide (1 ≤ p.x) && decide (p.x + 2 ≤ s.width.toNat) && decide (1 ≤ p.y) && decide (p.y + 2 ≤ s.height.toNat)

/-- `Pix(x, y)` (20_memory.md R54). -/
def State.pix (s : State) (p : Coord) : Word := s.store.readWord (s.cellIndex p)

/-- `Pix(x, y) <- w` (20_memory.md R54). -/
def State.setPix (s : State) (p : Coord) (w : Word) : State :=
  { s with store := s.store.writeWord (s.cellIndex p) w }

/-- `RowMajor(V(b))` (44_traversal.md R171): the cells with b ≤ x < WIDTH−b and b ≤ y < HEIGHT−b, y outer, x inner.
The lengths are truncated at 0, which is R171's empty set when a bound is negative. -/
def rowMajor (width height b : Nat) : List Coord :=
  (List.range' b (height - 2 * b)).flatMap fun y => (List.range' b (width - 2 * b)).map fun x => ⟨x, y⟩

/-- The visited cells of this machine's image with border `b`, in order. -/
def State.visited (s : State) (b : Nat) : List Coord := rowMajor s.width.toNat s.height.toNat b

/-- The traversal discipline (44_traversal.md R170): at each cell in order, the cell's word becomes `f` of the cell
and its word as it then stands. -/
def Memory.mapCells (width : Nat) (f : Coord → Word → Word) : List Coord → Memory → Memory
  | [], m => m
  | p :: ps, m =>
    Memory.mapCells width f ps
      (m.writeWord (Machine.cellIndex width p) (f p (m.readWord (Machine.cellIndex width p))))

/-- One traversal of the store as one step (44_traversal.md R176, 45_morphology.md R208, R210): only the store changes. -/
def State.mapCells (f : Coord → Word → Word) (cells : List Coord) (s : State) : State :=
  { s with store := Memory.mapCells s.width.toNat f cells s.store }

/-! ### Contract violations: entry, and the return from one -/

/-- `raise Fault(code)` (60_exceptions.md R225), the device's exception entry (R231): FAULT is set, the code of the
FIRST violation is kept, and nothing else changes: no state is saved, no mode changes, no vector is taken. -/
def State.raise (e : ErrCode) (s : State) : State :=
  { s with fault := true, errcode := if s.fault then s.errcode else e }

/-- The external reset (70_reset_and_hazards.md R255), the only way out of a fault (60_exceptions.md R232). CAPACITY is a
constant of the instance; the host's pending accesses and its last read are the host's, not the device's (log entry 13). -/
def State.resetDevice (s : State) : State :=
  { State.reset with capacity := s.capacity, bus := s.bus, readData := s.readData }

/-! ### The ordered checks of 60_exceptions.md R228 -/

/-- Make the checks in order: the first that fails raises its code and nothing else happens; when none fails, the
result is `k`. Every check comes before the first state write (R225, 00_scope.md R10). -/
def guarded : List (Bool × ErrCode) → State → State → State
  | [], _, k => k
  | (bad, e) :: rest, s, k => if bad then s.raise e else guarded rest s k

/-- Step 2 for a command no callback point permits (44_traversal.md R180). -/
def State.busyCheck (s : State) : Bool × ErrCode := (s.trav.active, .callbackViolation)

/-- Step 2 for GET, ACCESS and CHECKADJ: permitted only at a FOREACH_BOR callback point (44_traversal.md R180). -/
def State.borrowCheck (s : State) : Bool × ErrCode :=
  (s.trav.active && decide (s.trav.mode ≠ .foreachBor), .callbackViolation)

/-- Step 3 for an image command: the image must exist. -/
def State.imageCheck (s : State) : Bool × ErrCode := (!s.constructed, .notConstructed)

/-- Step 6 for GET, SET and ACCESS (43_image.md R160). -/
def State.inImageCheck (s : State) (p : Coord) : Bool × ErrCode := (!s.inImage p, .coordRange)

/-- Step 6 for CHECKADJ (45_morphology.md R201). -/
def State.interiorCheck (s : State) (p : Coord) : Bool × ErrCode := (!s.interior p, .coordRange)

end Sys2Proof.Machine
end

