-- ==== Sys2Proof/Machine/Operands.lean ====
section
/-! DEFINITION. Operand forms: the lanes of a PixelWord (41_codec.md), the registers a command reads and writes, the
KERNEL field, the 3×3 neighbourhood, and the register window with its offsets (10_state.md R21). -/

namespace Sys2Proof.Machine

/-! ### PixelWords -/

/-- `unpack(w)` (41_codec.md R115). -/
def unpack (w : Word) : Pixel where
  a := ((w >>> 24) &&& 0xFF#32).setWidth 8
  b := ((w >>> 16) &&& 0xFF#32).setWidth 8
  c := ((w >>> 8) &&& 0xFF#32).setWidth 8
  m := (w &&& 0xFF#32).setWidth 8

/-- `pack(A, B, C, M)` (41_codec.md R116), on 8-bit arguments only. -/
def pack (p : Pixel) : Word :=
  (p.a.setWidth 32 <<< 24) ||| (p.b.setWidth 32 <<< 16) ||| (p.c.setWidth 32 <<< 8) ||| p.m.setWidth 32

/-- The Mask of a PixelWord, bits 7:0 (20_memory.md R52). -/
def maskOf (w : Word) : Byte := (unpack w).m

/-- `{w[31:8], v}` (45_morphology.md R207): a new Mask under the same colour. -/
def withMask (w : Word) (v : Byte) : Word := pack ⟨(unpack w).a, (unpack w).b, (unpack w).c, v⟩

/-! ### Registers as operands -/

/-- CH_A, CH_B, CH_C, CH_M as one UnpackedPixel (10_state.md R24). -/
def State.channels (s : State) : Pixel := ⟨s.chA, s.chB, s.chC, s.chM⟩

/-- Write all four channel registers. -/
def State.setChannels (p : Pixel) (s : State) : State := { s with chA := p.a, chB := p.b, chC := p.c, chM := p.m }

/-- Write CH_A, CH_B and CH_C; CH_M keeps its value (42_color.md R130, 43_image.md R159). -/
def State.setColour (c : Byte × Byte × Byte) (s : State) : State := { s with chA := c.1, chB := c.2.1, chC := c.2.2 }

/-- The coordinate operand (X, Y) (10_state.md R25). -/
def State.coord (s : State) : Coord := ⟨s.x.toNat, s.y.toNat⟩

/-- The kernel a KERNEL field names; 0x03 to 0xFF name none (30_encoding.md R79). -/
def Kernel.ofField (k : Byte) : Option Kernel :=
  if k = 0x00#8 then some .host else if k = 0x01#8 then some .kRgb2hsv else if k = 0x02#8 then some .kHsv2rgb else none

/-- `N(x, y)` (45_morphology.md R200) for a cell with x ≥ 1 and y ≥ 1: nine cells, the centre included. -/
def neighbourhood (p : Coord) : List Coord :=
  [0, 1, 2].flatMap fun dy => [0, 1, 2].map fun dx => ⟨p.x + dx - 1, p.y + dy - 1⟩

/-! ### The register window -/

/-- The 15 named registers of the window (10_state.md R21). -/
inductive Reg where
  | cmd | status | word | chA | chB | chC | chM | x | y | width | height | curX | curY | count | capacity
  deriving DecidableEq, Repr

/-- All registers, in the order of 10_state.md R21. -/
def Reg.all : List Reg :=
  [.cmd, .status, .word, .chA, .chB, .chC, .chM, .x, .y, .width, .height, .curX, .curY, .count, .capacity]

/-- The byte offset of a register (10_state.md R21). -/
def Reg.offset : Reg → BitVec 8
  | .cmd => 0x00#8
  | .status => 0x04#8
  | .word => 0x08#8
  | .chA => 0x0C#8
  | .chB => 0x10#8
  | .chC => 0x14#8
  | .chM => 0x18#8
  | .x => 0x1C#8
  | .y => 0x20#8
  | .width => 0x24#8
  | .height => 0x28#8
  | .curX => 0x2C#8
  | .curY => 0x30#8
  | .count => 0x34#8
  | .capacity => 0x38#8

/-- An offset that is a multiple of 4 (20_memory.md R57). -/
def alignedOffset (off : BitVec 8) : Bool := decide (off.toNat % 4 = 0)

/-- The register at an offset; none at a misaligned or reserved one (20_memory.md R58, 10_state.md R36). -/
def Reg.atOffset (off : BitVec 8) : Option Reg :=
  if alignedOffset off then Reg.all.find? (fun r => decide (r.offset = off)) else none

/-- WIDTH and HEIGHT, which construction locks (10_state.md R26). -/
def Reg.isDimension : Reg → Bool
  | .width => true
  | .height => true
  | _ => false

/-- CH_A, CH_B, CH_C and CH_M, which hold 8 bits (10_state.md R24). -/
def Reg.isChannel : Reg → Bool
  | .chA => true
  | .chB => true
  | .chC => true
  | .chM => true
  | _ => false

/-- X, Y, WIDTH and HEIGHT, which hold 16 bits (10_state.md R25, R26). -/
def Reg.isHalf : Reg → Bool
  | .x => true
  | .y => true
  | .width => true
  | .height => true
  | _ => false

/-- The nine offsets a host write may name besides CMD (40_host_interface.md R102). -/
def Reg.hostWritable : Reg → Bool
  | .word => true
  | r => r.isChannel || r.isHalf

/-- `reg[R] <- v` for a host write (40_host_interface.md R102). Only the nine host-writable registers are ever asked for. -/
def State.setReg (r : Reg) (v : Word) (s : State) : State :=
  match r with
  | .word => { s with word := v }
  | .chA => { s with chA := v.setWidth 8 }
  | .chB => { s with chB := v.setWidth 8 }
  | .chC => { s with chC := v.setWidth 8 }
  | .chM => { s with chM := v.setWidth 8 }
  | .x => { s with x := v.setWidth 16 }
  | .y => { s with y := v.setWidth 16 }
  | .width => { s with width := v.setWidth 16 }
  | .height => { s with height := v.setWidth 16 }
  | .cmd => s
  | .status => s
  | .curX => s
  | .curY => s
  | .count => s
  | .capacity => s

end Sys2Proof.Machine
end

