-- ==== Sys2Proof/Machine/Codec.lean ====
section
/-! DEFINITION. The pixel codec family (41_codec.md): UNPACK and PACK. Neither needs an image, and both are permitted
before construction and at a callback point. -/

namespace Sys2Proof.Machine

/-- UNPACK (R119): WORD's four lanes into CH_A, CH_B, CH_C, CH_M. -/
def execUnpack (s : State) : Host.Outcome State Fault Refusal := .next (s.setChannels (unpack s.word))

/-- PACK (R120): CH_A, CH_B, CH_C, CH_M into WORD. -/
def execPack (s : State) : Host.Outcome State Fault Refusal := .next { s with word := pack s.channels }

end Sys2Proof.Machine
end

