-- ==== Sys2Proof/Machine/Color.lean ====
section
/-! DEFINITION. The RGB/HSV converter (42_color.md): the two functions over exact integers (00_scope.md R8), narrowed
to channels once, and the commands RGB2HSV and HSV2RGB. The pairing of each hue branch with its difference (R133) and
the sector table (R139) are the spec's reconstruction, which it marks as general knowledge (log entry 11). -/

namespace Sys2Proof.Machine

/-- value = max(A, B, C) (R131). -/
def colourValue (a b c : Int) : Int := max a (max b c)

/-- delta = value − min(A, B, C) (R131). -/
def colourDelta (a b c : Int) : Int := colourValue a b c - min a (min b c)

/-- The hue before reduction when A is dominant (R133): offset 0. -/
def hueA (a b c : Int) : Int := Int.tdiv (255 * (b - c)) (colourDelta a b c) + 0

/-- The hue before reduction when B is dominant (R133): offset 510. -/
def hueB (a b c : Int) : Int := Int.tdiv (255 * (c - a)) (colourDelta a b c) + 510

/-- The hue before reduction when C is dominant (R133): offset 1020. -/
def hueC (a b c : Int) : Int := Int.tdiv (255 * (a - b)) (colourDelta a b c) + 1020

/-- h6 (R133): A is tested first, then B, then C. -/
def hue6 (a b c : Int) : Int :=
  if a = colourValue a b c then hueA a b c else if b = colourValue a b c then hueB a b c else hueC a b c

/-- hue (R132, R133): 0 for a gray pixel, else h6 reduced modulo 1530 to a non-negative value and divided by 6. -/
def hueInt (a b c : Int) : Int :=
  if colourDelta a b c = 0 then 0 else Int.tdiv (Int.emod (hue6 a b c) 1530) 6

/-- saturation (R134): 0 for a black pixel. -/
def satInt (a b c : Int) : Int :=
  if colourValue a b c ≠ 0 then Int.tdiv (colourDelta a b c * 255) (colourValue a b c) else 0

/-- `rgbToHsv` (R135). Every result lies in [0, 255] (R136), so the narrowing drops nothing. -/
def rgbToHsv (a b c : Byte) : Byte × Byte × Byte :=
  (BitVec.ofInt 8 (hueInt a.toNat b.toNat c.toNat), BitVec.ofInt 8 (satInt a.toNat b.toNat c.toNat),
    BitVec.ofInt 8 (colourValue a.toNat b.toNat c.toNat))

/-- chroma (R139). -/
def chromaInt (s v : Int) : Int := Int.tdiv (s * v) 255

/-- ramp = 255 − |emod(6·H, 510) − 255| (R138, R139). -/
def rampInt (h : Int) : Int := 255 - |Int.emod (6 * h) 510 - 255|

/-- x (R139). -/
def xInt (h s v : Int) : Int := Int.tdiv (chromaInt s v * rampInt h) 255

/-- The sector table (R139) before `m` is added: six buckets of H, edges from the spec. -/
def sector (h chroma x : Int) : Int × Int × Int :=
  if h ≤ 42 then (chroma, x, 0)
  else if h ≤ 85 then (x, chroma, 0)
  else if h ≤ 127 then (0, chroma, x)
  else if h ≤ 170 then (0, x, chroma)
  else if h ≤ 212 then (x, 0, chroma)
  else (chroma, 0, x)

/-- `hsvToRgb` over integers (R139): the sector's triple with m = V − chroma added to each. -/
def hsvToRgbInt (h s v : Int) : Int × Int × Int :=
  let t := sector h (chromaInt s v) (xInt h s v)
  let m := v - chromaInt s v
  (t.1 + m, t.2.1 + m, t.2.2 + m)

/-- `hsvToRgb` (R139). Every result lies in [0, V] (R138), so the narrowing drops nothing. -/
def hsvToRgb (h s v : Byte) : Byte × Byte × Byte :=
  let t := hsvToRgbInt h.toNat s.toNat v.toNat
  (BitVec.ofInt 8 t.1, BitVec.ofInt 8 t.2.1, BitVec.ofInt 8 t.2.2)

/-- RGB2HSV (R140): CH_A, CH_B, CH_C; CH_M and STATUS.SPACE are neither read nor written. -/
def execRgb2hsv (s : State) : Host.Outcome State Fault Refusal := .next (s.setColour (rgbToHsv s.chA s.chB s.chC))

/-- HSV2RGB (R141): CH_A, CH_B, CH_C; CH_M and STATUS.SPACE are neither read nor written. -/
def execHsv2rgb (s : State) : Host.Outcome State Fault Refusal := .next (s.setColour (hsvToRgb s.chA s.chB s.chC))

end Sys2Proof.Machine
end

