-- ==== Sys2Proof/Machine/Flags.lean ====
section
/-! DEFINITION. STATUS: the numbers of its fields and the word a read returns (10_state.md R30, 40_host_interface.md R106). There
is no other flag, and no command sets a flag from its arithmetic (10_state.md R35). -/

namespace Sys2Proof.Machine

/-- ERRCODE, bits 15:8 of STATUS (60_exceptions.md R226). -/
def ErrCode.code : ErrCode → Byte
  | .none => 0x00#8
  | .illegalCommand => 0x01#8
  | .badRegister => 0x02#8
  | .regRange => 0x03#8
  | .channelRange => 0x04#8
  | .notConstructed => 0x05#8
  | .alreadyConstructed => 0x06#8
  | .dimLocked => 0x07#8
  | .capacity => 0x08#8
  | .coordRange => 0x09#8
  | .sentinelCollision => 0x0A#8
  | .callbackViolation => 0x0B#8

/-- TMODE, bits 5:4 of STATUS (10_state.md R30). -/
def TravMode.code : TravMode → BitVec 2
  | .foreach => 0#2
  | .foreachIdx => 1#2
  | .foreachBor => 2#2

/-- SPACE, bit 2 of STATUS (10_state.md R30). -/
def spaceBit : Space → BitVec 1
  | .rgb => 0#1
  | .hsv => 1#1

/-- A one-bit flag as a bit. -/
def flagBit (b : Bool) : BitVec 1 := BitVec.ofBool b

/-- STATUS.CALLBACK, which equals trav.active (10_state.md R34, R39). -/
def State.callback (s : State) : Bool := s.trav.active

/-- STATUS.TMODE, which equals trav.mode (10_state.md R34, R39). -/
def State.tmode (s : State) : TravMode := s.trav.mode

/-- `StatusWord()` (40_host_interface.md R106). -/
def State.statusWord (s : State) : Word :=
  (flagBit s.fault).setWidth 32 ||| ((flagBit s.constructed).setWidth 32 <<< 1) |||
    ((spaceBit s.space).setWidth 32 <<< 2) ||| ((flagBit s.callback).setWidth 32 <<< 3) |||
    ((TravMode.code s.tmode).setWidth 32 <<< 4) ||| ((ErrCode.code s.errcode).setWidth 32 <<< 8)

end Sys2Proof.Machine
end

