-- ==== Sys2Proof/Machine/HostInterface.lean ====
section
/-! DEFINITION. The host interface family (40_host_interface.md): reads, writes of the registers other than CMD, and
NOP. A write to CMD is in Issue.lean, since it executes a command. -/

namespace Sys2Proof.Machine

/-- The value of a register, zero-extended to 32 bits (10_state.md R21); CMD reads 0 (R22). -/
def State.getReg (s : State) : Reg → Word
  | .cmd => 0
  | .status => s.statusWord
  | .word => s.word
  | .chA => s.chA.setWidth 32
  | .chB => s.chB.setWidth 32
  | .chC => s.chC.setWidth 32
  | .chM => s.chM.setWidth 32
  | .x => s.x.setWidth 32
  | .y => s.y.setWidth 32
  | .width => s.width.setWidth 32
  | .height => s.height.setWidth 32
  | .curX => s.curX.setWidth 32
  | .curY => s.curY.setWidth 32
  | .count => s.count.setWidth 32
  | .capacity => s.capacity

/-- `HostRead(off)` (R101): never a fault, never a side effect; misaligned and reserved offsets read 0. -/
def State.hostRead (s : State) (off : BitVec 8) : Word :=
  match Reg.atOffset off with
  | some r => s.getReg r
  | none => 0

/-- The register part of `HostWrite(off, v)` (R102), its checks in the order of 60_exceptions.md R228. -/
def State.writeRegister (off : BitVec 8) (v : Word) (s : State) : State :=
  match (Reg.atOffset off).filter Reg.hostWritable with
  | none => s.raise .badRegister
  | some r =>
    guarded
      [(r.isDimension && s.constructed, .dimLocked),
       (r.isChannel && decide (0xFF < v.toNat), .channelRange),
       (r.isHalf && decide (0xFFFF < v.toNat), .regRange)]
      s (s.setReg r v)

/-- NOP (R105): no state changes. -/
def execNop (s : State) : Host.Outcome State Fault Refusal := .next s

end Sys2Proof.Machine
end

