-- ==== Sys2Proof/Machine/Image.lean ====
section
/-! DEFINITION. The image store family (43_image.md): CONSTRUCT, GET, SET, ACCESS. -/

namespace Sys2Proof.Machine

/-- WIDTH × HEIGHT, exactly. -/
def State.area (s : State) : Nat := s.width.toNat * s.height.toNat

/-- CONSTRUCT (R155): the checks in their order, then every cell of the image 0, CONSTRUCTED 1 and SPACE the SP field. -/
def execConstruct (sp : Space) (s : State) : Host.Outcome State Fault Refusal :=
  .next (guarded
    [s.busyCheck, (s.constructed, .alreadyConstructed), (decide (s.capacity.toNat < s.area), .capacity)]
    s { s with store := s.store.zeroWords s.area, constructed := true, space := sp })

/-- GET (R157): WORD <- Pix(X, Y). -/
def execGet (s : State) : Host.Outcome State Fault Refusal :=
  .next (guarded [s.borrowCheck, s.imageCheck, s.inImageCheck s.coord] s { s with word := s.pix s.coord })

/-- SET (R158): Pix(X, Y) <- WORD; never permitted at a callback point. -/
def execSet (s : State) : Host.Outcome State Fault Refusal :=
  .next (guarded [s.busyCheck, s.imageCheck, s.inImageCheck s.coord] s (s.setPix s.coord s.word))

/-- ACCESS (R159): CH_A, CH_B, CH_C <- the colour of Pix(X, Y); CH_M and WORD keep their values. -/
def execAccess (s : State) : Host.Outcome State Fault Refusal :=
  .next (guarded [s.borrowCheck, s.imageCheck, s.inImageCheck s.coord] s
    (s.setColour ((unpack (s.pix s.coord)).a, (unpack (s.pix s.coord)).b, (unpack (s.pix s.coord)).c)))

end Sys2Proof.Machine
end

