-- ==== Sys2Proof/Machine/Morphology.lean ====
section
/-! DEFINITION. The morphology neighbour counter (45_morphology.md): CHECKADJ, ERODE, DILATE, over the Mask lane. -/

namespace Sys2Proof.Machine

/-- SENTINEL (R200). -/
def sentinel : Byte := 0xFF#8

/-- `count(M, x, y, t, s)` (R202) over a Mask plane: each of the nine cells is counted at most once. -/
def neighbourCount (plane : Coord → Byte) (p : Coord) (t s : Byte) : Nat :=
  (neighbourhood p).countP fun q => decide (plane q = t ∨ plane q = s)

/-- The live Mask plane: Pix(q)[7:0] (R201). -/
def State.liveMask (s : State) (q : Coord) : Byte := maskOf (s.pix q)

/-- The snapshot's Mask plane (R206). -/
def State.snapMask (s : State) (q : Coord) : Byte := s.snap.readByte (s.cellIndex q)

/-- `for (x, y) in cells: snap(x, y) <- plane(x, y)` (R206). -/
def Memory.copyMasks (width : Nat) (plane : Coord → Byte) : List Coord → Memory → Memory
  | [], m => m
  | p :: ps, m => Memory.copyMasks width plane ps (m.writeByte (Machine.cellIndex width p) (plane p))

/-- The Mask snapshot of every cell (R206). -/
def State.takeSnapshot (s : State) : State :=
  { s with snap := Memory.copyMasks s.width.toNat s.liveMask (s.visited 0) s.snap }

/-- Pass 2 (R208, R210): over the full image, a Mask that is SENTINEL becomes `v`. -/
def State.resolveSentinel (v : Byte) (s : State) : State :=
  s.mapCells (fun _ w => if maskOf w = sentinel then withMask w v else w) (s.visited 0)

/-- ERODE's pass 1 (R208): over V(1), a cell whose snapshot count of target or SENTINEL is not 9 is marked. -/
def State.erodeMark (t : Byte) (s : State) : State :=
  s.mapCells (fun p w => if neighbourCount s.snapMask p t sentinel ≠ 9 then withMask w sentinel else w) (s.visited 1)

/-- DILATE's pass 1 (R210): over V(1), a cell that is not target in the snapshot and has a target neighbour is marked. -/
def State.dilateMark (t : Byte) (s : State) : State :=
  s.mapCells
    (fun p w => if s.snapMask p ≠ t ∧ 0 < neighbourCount s.snapMask p t t then withMask w sentinel else w) (s.visited 1)

/-- CHECKADJ (R201): COUNT <- the live count at (X, Y). -/
def execCheckadj (tgt sec : Byte) (s : State) : Host.Outcome State Fault Refusal :=
  .next (guarded [s.borrowCheck, s.imageCheck, s.interiorCheck s.coord] s
    { s with count := BitVec.ofNat 4 (neighbourCount s.liveMask s.coord tgt sec) })

/-- ERODE (R208). -/
def execErode (tgt dflt : Byte) (s : State) : Host.Outcome State Fault Refusal :=
  .next (guarded
    [s.busyCheck, s.imageCheck, (decide (tgt = sentinel ∨ dflt = sentinel), .sentinelCollision)]
    s ((s.takeSnapshot.erodeMark tgt).resolveSentinel dflt))

/-- DILATE (R210). -/
def execDilate (tgt : Byte) (s : State) : Host.Outcome State Fault Refusal :=
  .next (guarded [s.busyCheck, s.imageCheck, (decide (tgt = sentinel), .sentinelCollision)]
    s ((s.takeSnapshot.dilateMark tgt).resolveSentinel tgt))

end Sys2Proof.Machine
end

