-- ==== Sys2Proof/Machine/Traversal.lean ====
section
/-! DEFINITION. The image traversal engine (44_traversal.md): built-in kernels, the HOST kernel's callback points,
FOREACH, FOREACH_IDX, FOREACH_BOR, CONVERT and HOST_DONE. -/

namespace Sys2Proof.Machine

/-- `K_RGB2HSV` on a cell's word (R173): unpack, convert, pack; the Mask passes through. -/
def kernelRgb2hsv (w : Word) : Word :=
  pack ⟨(rgbToHsv (unpack w).a (unpack w).b (unpack w).c).1, (rgbToHsv (unpack w).a (unpack w).b (unpack w).c).2.1,
    (rgbToHsv (unpack w).a (unpack w).b (unpack w).c).2.2, (unpack w).m⟩

/-- `K_HSV2RGB` on a cell's word (R173). -/
def kernelHsv2rgb (w : Word) : Word :=
  pack ⟨(hsvToRgb (unpack w).a (unpack w).b (unpack w).c).1, (hsvToRgb (unpack w).a (unpack w).b (unpack w).c).2.1,
    (hsvToRgb (unpack w).a (unpack w).b (unpack w).c).2.2, (unpack w).m⟩

/-- `TraverseBuiltin(k, b)` (R176): one step, and no register changes. -/
def State.traverseBuiltin (f : Word → Word) (b : Nat) (s : State) : State := s.mapCells (fun _ w => f w) (s.visited b)

/-- `Present((x, y))` (R177): the cell's pixel into CH_A to CH_M, its coordinate into CUR_X and CUR_Y. -/
def State.present (p : Coord) (s : State) : State :=
  { s.setChannels (unpack (s.pix p)) with curX := BitVec.ofNat 16 p.x, curY := BitVec.ofNat 16 p.y }

/-- `TraverseHost(md, b)` (R177): suspended at the first cell, or nothing at all when no cell is visited. -/
def State.traverseHost (md : TravMode) (b : Nat) (s : State) : State :=
  match s.visited b with
  | [] => s
  | p :: ps => State.present p { s with trav := ⟨true, md, p :: ps, 0⟩ }

/-- A traversal's body after its checks (R175, R181, R182). -/
def State.traverse (md : TravMode) (k : Kernel) (b : Nat) (s : State) : State :=
  match k with
  | .host => s.traverseHost md b
  | .kRgb2hsv => s.traverseBuiltin kernelRgb2hsv b
  | .kHsv2rgb => s.traverseBuiltin kernelHsv2rgb b

/-- A traversal command: an undefined KERNEL is ILLEGAL_COMMAND (30_encoding.md R81), the first check of
60_exceptions.md R228; then the callback and construction checks; then the traversal. -/
def State.traversalCommand (md : TravMode) (kernel : Byte) (b : Nat) (s : State) : State :=
  match Kernel.ofField kernel with
  | none => s.raise .illegalCommand
  | some k => guarded [s.busyCheck, s.imageCheck] s (s.traverse md k b)

/-- FOREACH (R175): border 0, mode 0. -/
def execForeach (kernel : Byte) (s : State) : Host.Outcome State Fault Refusal :=
  .next (s.traversalCommand .foreach kernel 0)

/-- FOREACH_IDX (R181): mode 1. -/
def execForeachIdx (kernel : Byte) (border : Half) (s : State) : Host.Outcome State Fault Refusal :=
  .next (s.traversalCommand .foreachIdx kernel border.toNat)

/-- FOREACH_BOR (R182): mode 2. -/
def execForeachBor (kernel : Byte) (border : Half) (s : State) : Host.Outcome State Fault Refusal :=
  .next (s.traversalCommand .foreachBor kernel border.toNat)

/-- CONVERT (R183): a no-op when the tag already is the target; else every cell converted and the tag set. -/
def execConvert (sp : Space) (s : State) : Host.Outcome State Fault Refusal :=
  .next (guarded [s.busyCheck, s.imageCheck] s
    (if s.space = sp then s
     else
      { s.traverseBuiltin (match sp with | .hsv => kernelRgb2hsv | .rgb => kernelHsv2rgb) 0 with space := sp }))

/-- The traversal is complete (R179): its state and STATUS.CALLBACK and STATUS.TMODE are cleared. -/
def State.endTraversal (s : State) : State := { s with trav := ⟨false, .foreach, [], 0⟩ }

/-- A cell whose store word 20_memory.md R53 defines: it lies in the image, and the image exists. -/
def State.cellDefined (s : State) (p : Coord) : Bool := s.constructed && s.inImage p

/-- HOST_DONE (R179): pack CH_A to CH_M into the cell at the callback point, then present the next cell or end the
traversal. Where the traversal state names no defined cell, which R177 to R179 never let a run reach, it stops. -/
def execHostDone (s : State) : Host.Outcome State Fault Refusal :=
  if s.trav.active = false then .next (s.raise .callbackViolation)
  else
    match s.trav.cells[s.trav.index]? with
    | none => .fault .undefinedCell
    | some p =>
      if s.cellDefined p = false then .fault .undefinedCell
      else
        match s.trav.cells[s.trav.index + 1]? with
        | none => .next (s.setPix p (pack s.channels)).endTraversal
        | some q =>
          if s.cellDefined q = false then .fault .undefinedCell
          else .next (State.present q
            { s.setPix p (pack s.channels) with trav := { s.trav with index := s.trav.index + 1 } })

end Sys2Proof.Machine
end

