-- ==== Sys2Proof/Machine/Dispatch.lean ====
section
/-! DEFINITION. `exec`: one arm per command, each one direct call of its meaning. -/

namespace Sys2Proof.Machine

def exec (i : Instr) (s : State) : Host.Outcome State Fault Refusal :=
  match i with
  | .nop => Sys2Proof.Machine.execNop s
  | .unpack => Sys2Proof.Machine.execUnpack s
  | .pack => Sys2Proof.Machine.execPack s
  | .rgb2hsv => Sys2Proof.Machine.execRgb2hsv s
  | .hsv2rgb => Sys2Proof.Machine.execHsv2rgb s
  | .construct sp => Sys2Proof.Machine.execConstruct sp s
  | .get => Sys2Proof.Machine.execGet s
  | .set => Sys2Proof.Machine.execSet s
  | .access => Sys2Proof.Machine.execAccess s
  | .foreach kernel => Sys2Proof.Machine.execForeach kernel s
  | .foreachIdx kernel border => Sys2Proof.Machine.execForeachIdx kernel border s
  | .foreachBor kernel border => Sys2Proof.Machine.execForeachBor kernel border s
  | .convert sp => Sys2Proof.Machine.execConvert sp s
  | .hostDone => Sys2Proof.Machine.execHostDone s
  | .checkadj tgt sec => Sys2Proof.Machine.execCheckadj tgt sec s
  | .erode tgt dflt => Sys2Proof.Machine.execErode tgt dflt s
  | .dilate tgt => Sys2Proof.Machine.execDilate tgt s

end Sys2Proof.Machine
end

