-- ==== Sys2Proof/Machine/Issue.lean ====
section
/-! DEFINITION. Command issue and the host's accesses as the device's steps (40_host_interface.md R101 to R104,
10_state.md R20), and the host-program notation with its pseudo-instructions (30_encoding.md R84 to R86, 43_image.md R161). -/

namespace Sys2Proof.Machine

/-- `Issue(w)` (R103): decode, or ILLEGAL_COMMAND; each meaning makes its own context checks (60_exceptions.md R228). -/
def issue (w : Word) (s : State) : Host.Outcome State Fault Refusal :=
  match decode w with
  | .error _ => .next (s.raise .illegalCommand)
  | .ok i => exec i s

/-- `HostWrite(off, v)` (R102): ignored while FAULT = 1 (10_state.md R31); a write to CMD issues a command. -/
def hostWrite (off : BitVec 8) (v : Word) (s : State) : Host.Outcome State Fault Refusal :=
  if s.fault then .next s
  else if off = Reg.offset .cmd then issue v s
  else .next (s.writeRegister off v)

/-- One host event as one step (10_state.md R20): a read returns its value to the host and changes nothing else. -/
def deliver (e : HostEvent) (s : State) : Host.Outcome State Fault Refusal :=
  match e with
  | .read off => .next { s with readData := some (s.hostRead off) }
  | .write off v => hostWrite off v s
  | .reset => .next s.resetDevice

/-- The next pending host access, taken off the bus and delivered. With none pending the device holds its state
unchanged: it takes no step of its own (10_state.md R20, 60_exceptions.md R238; log entry 9). -/
def stepBus (s : State) : Host.Outcome State Fault Refusal :=
  match s.bus with
  | [] => .next s
  | e :: rest => deliver e { s with bus := rest }

/-- `s` with a host write of the command word `w` to CMD as the host's very next access. -/
def State.pendCommand (w : Word) (s : State) : State := { s with bus := .write (Reg.offset .cmd) w :: s.bus }

/-! ### The host-program notation -/

/-- `WR <reg>, <value>` (30_encoding.md R84). -/
def hostWr (r : Reg) (v : Word) : HostEvent := .write r.offset v

/-- `RD <reg>` (30_encoding.md R84). -/
def hostRd (r : Reg) : HostEvent := .read r.offset

/-- `CMD <mnemonic> [<operands>]` (30_encoding.md R84, R85): the command word written to CMD. -/
def hostCmd (i : Instr) : HostEvent := .write (Reg.offset .cmd) (encode i)

/-- `SETPIX <x>, <y>, <w>` (30_encoding.md R86). -/
def pseudoSetpix (x y : Half) (w : Word) : List HostEvent :=
  [hostWr .x (x.setWidth 32), hostWr .y (y.setWidth 32), hostWr .word w, hostCmd .set]

/-- `GETPIX <x>, <y>` (30_encoding.md R86). -/
def pseudoGetpix (x y : Half) : List HostEvent :=
  [hostWr .x (x.setWidth 32), hostWr .y (y.setWidth 32), hostCmd .get, hostRd .word]

/-- `LOADCH <a>, <b>, <c>, <m>` (30_encoding.md R86). -/
def pseudoLoadch (a b c m : Byte) : List HostEvent :=
  [hostWr .chA (a.setWidth 32), hostWr .chB (b.setWidth 32), hostWr .chC (c.setWidth 32), hostWr .chM (m.setWidth 32)]

/-- `NEWIMG <w>, <h>, <sp>` (30_encoding.md R86). -/
def pseudoNewimg (w h : Half) (sp : Space) : List HostEvent :=
  [hostWr .width (w.setWidth 32), hostWr .height (h.setWidth 32), hostCmd (.construct sp)]

/-- `COUNTAT <x>, <y>, <tgt>, <sec>` (30_encoding.md R86). -/
def pseudoCountat (x y : Half) (tgt sec : Byte) : List HostEvent :=
  [hostWr .x (x.setWidth 32), hostWr .y (y.setWidth 32), hostCmd (.checkadj tgt sec), hostRd .count]

/-- The external binding's row-major marshal of an image (43_image.md R161): a host loop over ACCESS. -/
def hostMarshal (width height : Nat) : List HostEvent :=
  (rowMajor width height 0).flatMap fun p =>
    [hostWr .x (BitVec.ofNat 32 p.x), hostWr .y (BitVec.ofNat 32 p.y), hostCmd .access,
     hostRd .chA, hostRd .chB, hostRd .chC]

end Sys2Proof.Machine
end

