-- ==== Sys2Proof/Machine/Step.lean ====
section
/-! DEFINITION. One step of the machine, and where it finds its next instruction. The device has no program counter and
fetches nothing (10_state.md R37): a command reaches it as a host write to CMD, and one step is one host access (log
entry 1). -/

namespace Sys2Proof.Machine

/-- One step: the host's next pending access (10_state.md R20, R22). -/
def step (s : State) : Host.Outcome State Fault Refusal := stepBus s

/-- `s` with a host write of the command word `w` (its `nbits` low bits) to CMD as the host's very next access. -/
def State.withFetchWord (s : State) (nbits w : Nat) : State :=
  s.pendCommand (BitVec.ofNat 32 (w % 2 ^ nbits))

end Sys2Proof.Machine
end

