-- ==== Sys2Proof/Safety.lean ====
section
/-! DEFINITION. The terms claims use: which commands a callback point permits (44_traversal.md R180), which commands need
an image (60_exceptions.md R226), the machine invariant, and when two machines look the same to every host. -/

namespace Sys2Proof.Machine

/-- The commands a callback point of mode `m` permits (44_traversal.md R180). -/
def permittedAtCallback (i : Instr) (m : TravMode) : Bool :=
  match i with
  | .nop => true
  | .unpack => true
  | .pack => true
  | .rgb2hsv => true
  | .hsv2rgb => true
  | .hostDone => true
  | .get => decide (m = .foreachBor)
  | .access => decide (m = .foreachBor)
  | .checkadj _ _ => decide (m = .foreachBor)
  | .set => false
  | .construct _ => false
  | .foreach _ => false
  | .foreachIdx _ _ => false
  | .foreachBor _ _ => false
  | .convert _ => false
  | .erode _ _ => false
  | .dilate _ => false

/-- The commands that fault with NOT_CONSTRUCTED when no image exists (60_exceptions.md R226, code 0x05). -/
def needsImage (i : Instr) : Bool :=
  match i with
  | .get => true
  | .set => true
  | .access => true
  | .foreach _ => true
  | .foreachIdx _ _ => true
  | .foreachBor _ _ => true
  | .convert _ => true
  | .checkadj _ _ => true
  | .erode _ _ => true
  | .dilate _ => true
  | .nop => false
  | .unpack => false
  | .pack => false
  | .rgb2hsv => false
  | .hsv2rgb => false
  | .construct _ => false
  | .hostDone => false

/-- What 30_encoding.md R76 and R81 say of a command of format N: its word is its opcode and zeros, that word decodes to it,
and every other word of that opcode is illegal. -/
def FormatNCommand (opc : Byte) (i : Instr) : Prop :=
  encode i = opc ++ 0#24 ∧ decode (encode i) = .ok i ∧
    ∀ w, opcField w = opc → w ≠ encode i → decode w = .error .reservedBits

/-- The mode, KERNEL field and border of a traversal command (44_traversal.md R175, R181, R182); FOREACH has border 0. -/
def traversalOf (i : Instr) : Option (TravMode × Byte × Nat) :=
  match i with
  | .foreach k => some (.foreach, k, 0)
  | .foreachIdx k b => some (.foreachIdx, k, b.toNat)
  | .foreachBor k b => some (.foreachBor, k, b.toNat)
  | .nop => none
  | .unpack => none
  | .pack => none
  | .rgb2hsv => none
  | .hsv2rgb => none
  | .construct _ => none
  | .get => none
  | .set => none
  | .access => none
  | .convert _ => none
  | .hostDone => none
  | .checkadj _ _ => none
  | .erode _ _ => none
  | .dilate _ => none

/-- `q` lies in the 3×3 neighbourhood of `p`, the Chebyshev ball of radius 1 (45_morphology.md R200). -/
abbrev near (p q : Coord) : Prop := p.x ≤ q.x + 1 ∧ q.x ≤ p.x + 1 ∧ p.y ≤ q.y + 1 ∧ q.y ≤ p.y + 1

/-- `p` is visited with border `b` (44_traversal.md R171). -/
abbrev State.visits (s : State) (b : Nat) (p : Coord) : Prop :=
  b ≤ p.x ∧ p.x + b < s.width.toNat ∧ b ≤ p.y ∧ p.y + b < s.height.toNat

/-- The Mask of a cell, bits 7:0 of its PixelWord (20_memory.md R52). -/
abbrev State.mask (s : State) (p : Coord) : Byte := (s.pix p).extractLsb' 0 8

/-- The colour of a cell, bits 31:8 of its PixelWord (20_memory.md R52). -/
abbrev State.colour (s : State) (p : Coord) : BitVec 24 := (s.pix p).extractLsb' 8 24

/-- At a callback point where the image may not be read (44_traversal.md R180). -/
abbrev State.readBlocked (s : State) : Prop := s.trav.active = true ∧ s.trav.mode ≠ .foreachBor

/-- The machine invariant: what the spec says of every state the device can be in. -/
structure Inv (s : State) : Prop where
  /-- The store keeps its canonical form. -/
  store_wf : s.store.wf
  /-- The snapshot buffer keeps its canonical form. -/
  snap_wf : s.snap.wf
  /-- The image store holds PIXEL_CAPACITY words and no more (10_state.md R38). -/
  store_bound : ∀ c ∈ s.store, c.1 < 4 * s.capacity.toNat
  /-- The snapshot buffer holds one byte per word of the image store (10_state.md R40). -/
  snap_bound : ∀ c ∈ s.snap, c.1 < s.capacity.toNat
  /-- ERRCODE is NONE exactly while FAULT = 0 (10_state.md R30). -/
  fault_code : s.fault = true ↔ s.errcode ≠ .none
  /-- SPACE reads 0 while CONSTRUCTED = 0 (10_state.md R33). -/
  space_rgb : s.constructed = false → s.space = .rgb
  /-- A constructed image fits the store (43_image.md R155). -/
  image_fits : s.constructed = true → s.area ≤ s.capacity.toNat
  /-- With no traversal suspended the traversal state is as at reset, so TMODE is 0 (10_state.md R30, R39). -/
  idle : s.trav.active = false → s.trav = ⟨false, .foreach, [], 0⟩
  /-- A suspended traversal has an image, and its cells are a visited set in row-major order, of border 0 in mode FOREACH
  (44_traversal.md R171, R175). -/
  suspended : s.trav.active = true → s.constructed = true ∧
    ∃ b : Half, s.trav.cells = s.visited b.toNat ∧ (s.trav.mode = .foreach → b = 0)
  /-- The suspended traversal stands at a cell, whose coordinate CUR_X and CUR_Y hold (44_traversal.md R178). -/
  at_cell : s.trav.active = true →
    ∃ p, s.trav.cells[s.trav.index]? = some p ∧ s.curX.toNat = p.x ∧ s.curY.toNat = p.y
  /-- COUNT is an integer 0 to 9 (10_state.md R28). -/
  count_le : s.count.toNat ≤ 9

/-- Two machines no host can tell apart now: equal but for the snapshot buffer and for the store words outside the
image, all of them while no image exists (10_state.md R38, R40, 20_memory.md R55). -/
structure SameObservable (s t : State) : Prop where
  /-- All the rest of the state is equal. -/
  rest : t = { s with store := t.store, snap := t.snap }
  /-- The image's words are equal. -/
  image : s.constructed = true → ∀ i < s.area, t.store.readWord i = s.store.readWord i

end Sys2Proof.Machine
end

