-- ==== Sys2Proof/Certificates/Slice0/Obligations.lean ====
section
/-! DEFINITION. The statements for the provers. Each docstring names the rule of spec/ it formalises; where a rule is
one the spec marks as derived or as general knowledge, or where a clause is the model's own choice, the docstring says so. -/

open Sys2Proof Sys2Proof.Machine

/-! ### Encoding -/

/-- Every well-formed command decodes from the word it assembles to, with every operand at every value. -/
def Obligations.DecodeOfEncode : Prop :=
  ∀ i : Instr, i.wellFormed = true → decode (encode i) = .ok i

/-- Every word that decodes is the word of the command it decodes to, which is well-formed: no bit is ignored. -/
def Obligations.EncodeOfDecode : Prop :=
  ∀ (w : Word) (i : Instr), decode w = .ok i → i.wellFormed = true ∧ encode i = w

/-- Decoding accepts exactly the words that fit a row of the opcode table, and answers that row's command (R78 to R81). -/
def Obligations.DecodesExactlyTheOpcodeTable : Prop :=
  (∀ (w : Word) (i : Instr), decode w = .ok i → ∃ r ∈ opcodeTable, r.fits w = true ∧ r.mnemonic = i.mnemonic) ∧
  ∀ (w : Word), ∀ r ∈ opcodeTable, r.fits w = true → ∃ i, decode w = .ok i ∧ i.mnemonic = r.mnemonic

/-- No word fits two rows of the opcode table (R75, R78). -/
def Obligations.OpcodeRowsDoNotOverlap : Prop :=
  opcodeTable.Pairwise fun r r' => ∀ w : Word, ¬ (r.fits w = true ∧ r'.fits w = true)

/-- Words written out from R85 decode to the commands R85 gives them. -/
def Obligations.WrittenOutWordsDecode : Prop :=
  decode 0x00000000#32 = .ok .nop ∧ decode 0x02000000#32 = .ok .pack ∧ decode 0x04000000#32 = .ok .hsv2rgb ∧
  decode 0x10000001#32 = .ok (.construct .hsv) ∧ decode 0x13000000#32 = .ok .access ∧
  decode 0x20010000#32 = .ok (.foreach 0x01#8) ∧ decode 0x21000001#32 = .ok (.foreachIdx 0x00#8 0x0001#16) ∧
  decode 0x2202FFFF#32 = .ok (.foreachBor 0x02#8 0xFFFF#16) ∧ decode 0x2F000000#32 = .ok .hostDone ∧
  decode 0x300012AB#32 = .ok (.checkadj 0x12#8 0xAB#8) ∧ decode 0x31000102#32 = .ok (.erode 0x01#8 0x02#8) ∧
  decode 0x32000100#32 = .ok (.dilate 0x01#8)

/-! ### The host interface -/

/-- R103: a write of a word to CMD, with FAULT = 0, runs the command the word decodes to on the state the write found,
or raises ILLEGAL_COMMAND. The bus, the model's own, loses the access (log entry 1). -/
def Obligations.StepRunsTheDecodedCommand : Prop :=
  ∀ (s : State) (w : Word) (rest : List HostEvent), s.fault = false → s.bus = .write 0x00#8 w :: rest →
    (∀ i, decode w = .ok i → step s = exec i { s with bus := rest }) ∧
    (∀ e, decode w = .error e → step s = .next (State.raise .illegalCommand { s with bus := rest }))

/-- R101: what a read of every offset returns to the host; it changes no state of the
device. That the access leaves the bus and that the value is kept as the host's last read are the model's choices (log
entries 1 and 2). -/
def Obligations.HostReadReturnsTheRegister : Prop :=
  ∀ (s : State) (off : BitVec 8) (rest : List HostEvent), s.bus = .read off :: rest →
    ∃ v : Word, step s = .next { s with bus := rest, readData := some v } ∧
      (off.toNat % 4 ≠ 0 → v = 0) ∧ (off = 0x00#8 → v = 0) ∧ (off = 0x04#8 → v = s.statusWord) ∧
      (off = 0x08#8 → v = s.word) ∧ (off = 0x0C#8 → v.toNat = s.chA.toNat) ∧ (off = 0x10#8 → v.toNat = s.chB.toNat) ∧
      (off = 0x14#8 → v.toNat = s.chC.toNat) ∧ (off = 0x18#8 → v.toNat = s.chM.toNat) ∧
      (off = 0x1C#8 → v.toNat = s.x.toNat) ∧ (off = 0x20#8 → v.toNat = s.y.toNat) ∧
      (off = 0x24#8 → v.toNat = s.width.toNat) ∧ (off = 0x28#8 → v.toNat = s.height.toNat) ∧
      (off = 0x2C#8 → v.toNat = s.curX.toNat) ∧ (off = 0x30#8 → v.toNat = s.curY.toNat) ∧
      (off = 0x34#8 → v.toNat = s.count.toNat) ∧ (off = 0x38#8 → v = s.capacity) ∧ (0x38#8 < off → v = 0)

/-- R102, the writes that store: WORD takes any value; a channel takes 0 to 255; X and Y take 0 to 65535, and so do
WIDTH and HEIGHT before construction. The register holds the value and nothing else of the device changes. The access
leaves the bus, the model's own (log entry 1). -/
def Obligations.HostWriteStoresInRange : Prop :=
  ∀ (s : State) (off : BitVec 8) (v : Word) (rest : List HostEvent), s.fault = false → s.bus = .write off v :: rest →
    (off = 0x08#8 → step s = .next { s with bus := rest, word := v }) ∧
    (v.toNat ≤ 0xFF →
      (off = 0x0C#8 → ∃ b : Byte, b.toNat = v.toNat ∧ step s = .next { s with bus := rest, chA := b }) ∧
      (off = 0x10#8 → ∃ b : Byte, b.toNat = v.toNat ∧ step s = .next { s with bus := rest, chB := b }) ∧
      (off = 0x14#8 → ∃ b : Byte, b.toNat = v.toNat ∧ step s = .next { s with bus := rest, chC := b }) ∧
      (off = 0x18#8 → ∃ b : Byte, b.toNat = v.toNat ∧ step s = .next { s with bus := rest, chM := b })) ∧
    (v.toNat ≤ 0xFFFF →
      (off = 0x1C#8 → ∃ h : Half, h.toNat = v.toNat ∧ step s = .next { s with bus := rest, x := h }) ∧
      (off = 0x20#8 → ∃ h : Half, h.toNat = v.toNat ∧ step s = .next { s with bus := rest, y := h }) ∧
      (s.constructed = false →
        (off = 0x24#8 → ∃ h : Half, h.toNat = v.toNat ∧ step s = .next { s with bus := rest, width := h }) ∧
        (off = 0x28#8 → ∃ h : Half, h.toNat = v.toNat ∧ step s = .next { s with bus := rest, height := h })))

/-- R102 and R228, the writes that fault, in the order of the checks: a misaligned offset, or one that is neither CMD
nor one of the nine writable registers; WIDTH and HEIGHT after construction; a channel above 255; a half register
above 65535. The access leaves the bus, the model's own (log entry 1). -/
def Obligations.HostWriteFaultsInOrder : Prop :=
  ∀ (s : State) (off : BitVec 8) (v : Word) (rest : List HostEvent), s.fault = false → s.bus = .write off v :: rest →
    (off ≠ 0x00#8 → off ∉ [0x08#8, 0x0C#8, 0x10#8, 0x14#8, 0x18#8, 0x1C#8, 0x20#8, 0x24#8, 0x28#8] →
      step s = .next (State.raise .badRegister { s with bus := rest })) ∧
    (off = 0x24#8 ∨ off = 0x28#8 → s.constructed = true →
      step s = .next (State.raise .dimLocked { s with bus := rest })) ∧
    (off = 0x24#8 ∨ off = 0x28#8 → s.constructed = false → 0xFFFF < v.toNat →
      step s = .next (State.raise .regRange { s with bus := rest })) ∧
    (off = 0x1C#8 ∨ off = 0x20#8 → 0xFFFF < v.toNat →
      step s = .next (State.raise .regRange { s with bus := rest })) ∧
    (off = 0x0C#8 ∨ off = 0x10#8 ∨ off = 0x14#8 ∨ off = 0x18#8 → 0xFF < v.toNat →
      step s = .next (State.raise .channelRange { s with bus := rest }))

/-- R106 with the fields of R30: STATUS as the number its bits make, every reserved bit 0. -/
def Obligations.StatusWordIsItsFields : Prop :=
  ∀ s : State, s.statusWord.toNat =
    s.fault.toNat + 2 * s.constructed.toNat + 4 * (match s.space with | .rgb => 0 | .hsv => 1) + 8 * s.trav.active.toNat +
      16 * (match s.trav.mode with | .foreach => 0 | .foreachIdx => 1 | .foreachBor => 2) +
      256 * s.errcode.code.toNat

/-- R226: the codes of the eleven causes, and that no other value from 0x0C up is ever one. -/
def Obligations.ErrorCodesAreTheTable : Prop :=
  [ErrCode.none, .illegalCommand, .badRegister, .regRange, .channelRange, .notConstructed, .alreadyConstructed,
    .dimLocked, .capacity, .coordRange, .sentinelCollision, .callbackViolation].map (fun e => e.code.toNat) =
      List.range 12 ∧
  ∀ e : ErrCode, e.code.toNat < 0x0C

/-- R225: raising a fault latches FAULT and the code of the first violation, and writes nothing else. -/
def Obligations.RaiseLatchesTheFirstViolation : Prop :=
  ∀ (s : State) (e : ErrCode),
    (s.fault = false → s.raise e = { s with fault := true, errcode := e }) ∧ (s.fault = true → s.raise e = s)

/-- R31, with R20 and R238 for the idle clause: a violation sets FAULT; while FAULT = 1 every write is ignored, reads return
current values, no later violation changes ERRCODE, and an idle device stays as it is; the reset event clears FAULT. The
access leaves the bus and a read's value is kept, both the model's own (log entries 1 and 2); that an idle step changes
nothing is deduced (log entry 9). -/
def Obligations.FaultedDeviceIgnoresWrites : Prop :=
  (∀ (s : State) (e : ErrCode), (s.raise e).fault = true) ∧
  ∀ s : State, s.fault = true →
    (∀ off v rest, s.bus = .write off v :: rest → step s = .next { s with bus := rest }) ∧
    (∀ off rest, s.bus = .read off :: rest → step s = .next { s with bus := rest, readData := some (s.hostRead off) }) ∧
    (∀ e, s.raise e = s) ∧ (s.bus = [] → step s = .next s) ∧
    (∀ rest, s.bus = .reset :: rest → ∃ t, step s = .next t ∧ t.fault = false)

/-- R255: the reset event, from any state, faulted or suspended too. The rule leaves the store and the snapshot buffer
unspecified and the statement says nothing of them. The event stands on the bus, the model's own (log entries 1 and
13). -/
def Obligations.ResetEventPutsTheResetState : Prop :=
  ∀ (s : State) (rest : List HostEvent), s.bus = .reset :: rest →
    ∃ t, step s = .next t ∧
      t.statusWord = 0 ∧ t.fault = false ∧ t.constructed = false ∧ t.space = .rgb ∧ t.errcode = .none ∧
      t.word = 0 ∧ t.chA = 0 ∧ t.chB = 0 ∧ t.chC = 0 ∧ t.chM = 0 ∧ t.x = 0 ∧ t.y = 0 ∧ t.width = 0 ∧ t.height = 0 ∧
      t.curX = 0 ∧ t.curY = 0 ∧ t.count = 0 ∧ t.capacity = s.capacity ∧
      t.trav = ⟨false, .foreach, [], 0⟩

/-- R255 of the state the machine starts in; CAPACITY is the open parameter PIXEL_CAPACITY (R6, R29). (Its form: log
entry 3.) -/
def Obligations.ResetStateIsTheSpecs : Prop :=
  State.reset.statusWord = 0 ∧ State.reset.word = 0 ∧
  (State.reset.chA = 0 ∧ State.reset.chB = 0 ∧ State.reset.chC = 0 ∧ State.reset.chM = 0) ∧
  (State.reset.x = 0 ∧ State.reset.y = 0 ∧ State.reset.width = 0 ∧ State.reset.height = 0) ∧
  (State.reset.curX = 0 ∧ State.reset.curY = 0 ∧ State.reset.count = 0) ∧
  State.reset.capacity = Config.pixelCapacity ∧ State.reset.trav = ⟨false, .foreach, [], 0⟩

/-- With no host access pending the device takes no step of its own and holds its state (R20, R238; log entry 9). -/
def Obligations.IdleDeviceHoldsItsState : Prop :=
  ∀ s : State, s.bus = [] → step s = .next s

/-- R105: NOP is the word 0x00000000, every other word of its opcode is illegal, and it changes no state, in any state. -/
def Obligations.NopChangesNothing : Prop :=
  FormatNCommand 0x00#8 .nop ∧ encode .nop = 0x00000000#32 ∧ ∀ s : State, exec .nop s = .next s

/-! ### The pixel codec -/

/-- R119: UNPACK writes WORD's four lanes to CH_A, CH_B, CH_C, CH_M, in any state, and nothing else. -/
def Obligations.UnpackWritesTheFourChannels : Prop :=
  FormatNCommand 0x01#8 .unpack ∧ encode .unpack = 0x01000000#32 ∧
  ∀ s : State, ∃ t, exec .unpack s = .next t ∧
    t.chA.toNat = s.word.toNat / 2 ^ 24 ∧ t.chB.toNat = s.word.toNat / 2 ^ 16 % 256 ∧
    t.chC.toNat = s.word.toNat / 2 ^ 8 % 256 ∧ t.chM.toNat = s.word.toNat % 256 ∧
    t = { s with chA := t.chA, chB := t.chB, chC := t.chC, chM := t.chM }

/-- R120: PACK writes the four channels to WORD, A most significant, in any state, and nothing else. -/
def Obligations.PackWritesWord : Prop :=
  FormatNCommand 0x02#8 .pack ∧ encode .pack = 0x02000000#32 ∧
  ∀ s : State, ∃ t, exec .pack s = .next t ∧
    t.word.toNat = s.chA.toNat * 2 ^ 24 + s.chB.toNat * 2 ^ 16 + s.chC.toNat * 2 ^ 8 + s.chM.toNat ∧
    t = { s with word := t.word }

/-- R118: unpacking a packed pixel and packing an unpacked word give them back (the spec marks the second law derived). -/
def Obligations.PackUnpackRoundTrip : Prop :=
  (∀ p : Pixel, unpack (pack p) = p) ∧ ∀ w : Word, pack (unpack w) = w

/-! ### The RGB/HSV converter -/

/-- R140 with the function of R135: RGB2HSV in any state, its three results as exact integers, and nothing else changed.
The pairing of each branch with its difference is the spec's reconstruction, which R133 marks as general knowledge
(log entry 11). -/
def Obligations.Rgb2hsvComputesHueSaturationValue : Prop :=
  FormatNCommand 0x03#8 .rgb2hsv ∧ encode .rgb2hsv = 0x03000000#32 ∧
  ∀ s : State, ∃ t, exec .rgb2hsv s = .next t ∧ t = { s with chA := t.chA, chB := t.chB, chC := t.chC } ∧
    ∀ A B C value delta h6 : Int, A = s.chA.toNat → B = s.chB.toNat → C = s.chC.toNat →
      value = max A (max B C) → delta = value - min A (min B C) →
      h6 = (if A = value then Int.tdiv (255 * (B - C)) delta
            else if B = value then Int.tdiv (255 * (C - A)) delta + 510
            else Int.tdiv (255 * (A - B)) delta + 1020) →
      (t.chA.toNat : Int) = (if delta = 0 then 0 else h6 % 1530 / 6) ∧
      (t.chB.toNat : Int) = (if value = 0 then 0 else delta * 255 / value) ∧
      (t.chC.toNat : Int) = value

/-- R136, which the spec marks derived: the range of every intermediate value of `rgbToHsv`. Each of the three differences d
of two channels has |d| ≤ delta, and its term lies in [−255, 255]; h6 lies in [−255, 1275], its remainder in [0, 1529], the
hue in [0, 254] (255 is never produced), saturation and value in [0, 255]; every product lies within 65025, which one of them
reaches. The pairing of the differences is the spec's reconstruction (log entry 11). -/
def Obligations.RgbToHsvBounds : Prop :=
  (∀ a b c : Byte, ∀ A B C delta : Int, A = a.toNat → B = b.toNat → C = c.toNat → delta = colourDelta A B C →
    (∀ d ∈ [B - C, C - A, A - B], |d| ≤ delta ∧ |255 * d| ≤ 65025 ∧
      (delta ≠ 0 → -255 ≤ Int.tdiv (255 * d) delta ∧ Int.tdiv (255 * d) delta ≤ 255)) ∧
    (delta ≠ 0 → -255 ≤ hue6 A B C ∧ hue6 A B C ≤ 1275) ∧
    (0 ≤ Int.emod (hue6 A B C) 1530 ∧ Int.emod (hue6 A B C) 1530 ≤ 1529) ∧
    (0 ≤ hueInt A B C ∧ hueInt A B C ≤ 254) ∧
    (0 ≤ delta * 255 ∧ delta * 255 ≤ 65025) ∧
    (0 ≤ satInt A B C ∧ satInt A B C ≤ 255) ∧
    (0 ≤ colourValue A B C ∧ colourValue A B C ≤ 255) ∧
    (rgbToHsv a b c).1.toNat ≤ 254) ∧
  ∃ a b c : Byte, colourDelta a.toNat b.toNat c.toNat * 255 = 65025

/-- R137, which the spec marks derived: when channels tie for the value, each branch that could be taken gives one
hue. It rests on the spec's reconstruction (log entry 11). -/
def Obligations.HueTieBreakIsUnobservable : Prop :=
  ∀ a b c : Byte, colourDelta a.toNat b.toNat c.toNat ≠ 0 →
    ((a.toNat : Int) = colourValue a.toNat b.toNat c.toNat → (b.toNat : Int) = colourValue a.toNat b.toNat c.toNat →
      hueA a.toNat b.toNat c.toNat = hueB a.toNat b.toNat c.toNat) ∧
    ((b.toNat : Int) = colourValue a.toNat b.toNat c.toNat → (c.toNat : Int) = colourValue a.toNat b.toNat c.toNat →
      hueB a.toNat b.toNat c.toNat = hueC a.toNat b.toNat c.toNat) ∧
    ((a.toNat : Int) = colourValue a.toNat b.toNat c.toNat → (c.toNat : Int) = colourValue a.toNat b.toNat c.toNat →
      hueA a.toNat b.toNat c.toNat % 1530 = hueC a.toNat b.toNat c.toNat % 1530)

/-- R141 with the function of R139: HSV2RGB in any state, its three results as exact integers, and nothing else changed. The
assignment of each bucket is the spec's reconstruction, which R139 marks as general knowledge (log entry 11). -/
def Obligations.Hsv2rgbComputesTheSector : Prop :=
  FormatNCommand 0x04#8 .hsv2rgb ∧ encode .hsv2rgb = 0x04000000#32 ∧
  ∀ s : State, ∃ t, exec .hsv2rgb s = .next t ∧ t = { s with chA := t.chA, chB := t.chB, chC := t.chC } ∧
    ∀ H S V chroma x m : Int, H = s.chA.toNat → S = s.chB.toNat → V = s.chC.toNat →
      chroma = S * V / 255 → x = chroma * (255 - |6 * H % 510 - 255|) / 255 → m = V - chroma →
      ((t.chA.toNat : Int), (t.chB.toNat : Int), (t.chC.toNat : Int)) =
        (if H ≤ 42 then (chroma + m, x + m, 0 + m)
         else if H ≤ 85 then (x + m, chroma + m, 0 + m)
         else if H ≤ 127 then (0 + m, chroma + m, x + m)
         else if H ≤ 170 then (0 + m, x + m, chroma + m)
         else if H ≤ 212 then (x + m, 0 + m, chroma + m)
         else (chroma + m, 0 + m, x + m))

/-- R138 and R142, which the spec marks derived: every output lies in [0, V]; hue 255 gives what hue 0 gives; S = 0
gives (V, V, V), and V = 0 gives black. It rests on the spec's reconstruction (log entry 11). -/
def Obligations.HsvToRgbBoundsAndCorners : Prop :=
  (∀ h s v : Byte, (hsvToRgb h s v).1.toNat ≤ v.toNat ∧ (hsvToRgb h s v).2.1.toNat ≤ v.toNat ∧
    (hsvToRgb h s v).2.2.toNat ≤ v.toNat) ∧
  (∀ s v : Byte, hsvToRgb 0xFF#8 s v = hsvToRgb 0x00#8 s v) ∧
  (∀ h v : Byte, hsvToRgb h 0x00#8 v = (v, v, v)) ∧
  ∀ h s : Byte, hsvToRgb h s 0x00#8 = (0, 0, 0)

/-- R132 and R134 with R141: a gray pixel (g, g, g) converts to (0, 0, g), and converting back gives it exactly. The
inverse's sector table is the spec's reconstruction (log entry 11). -/
def Obligations.GrayConvertsExactly : Prop :=
  ∀ g : Byte, rgbToHsv g g g = (0, 0, g) ∧
    hsvToRgb (rgbToHsv g g g).1 (rgbToHsv g g g).2.1 (rgbToHsv g g g).2.2 = (g, g, g)

/-! ### The image store -/

/-- R155: CONSTRUCT's words, its checks in their order, and its effect: the image's words 0, CONSTRUCTED 1, SPACE the
SP field, every byte outside the image's words and every other piece of state unchanged. Bytes outside a word are
named by the model's layout (log entry 6). -/
def Obligations.ConstructZeroFillsTheImage : Prop :=
  encode (.construct .rgb) = 0x10000000#32 ∧ encode (.construct .hsv) = 0x10000001#32 ∧
  (∀ w, opcField w = 0x10#8 → w ≠ 0x10000000#32 → w ≠ 0x10000001#32 → decode w = .error .reservedBits) ∧
  ∀ (sp : Space) (s : State),
    (s.trav.active = true → exec (.construct sp) s = .next (s.raise .callbackViolation)) ∧
    (s.trav.active = false → s.constructed = true → exec (.construct sp) s = .next (s.raise .alreadyConstructed)) ∧
    (s.trav.active = false → s.constructed = false → s.capacity.toNat < s.width.toNat * s.height.toNat →
      exec (.construct sp) s = .next (s.raise .capacity)) ∧
    (s.trav.active = false → s.constructed = false → s.width.toNat * s.height.toNat ≤ s.capacity.toNat →
      ∃ t, exec (.construct sp) s = .next t ∧
        t = { s with store := t.store, constructed := true, space := sp } ∧
        (∀ i < s.width.toNat * s.height.toNat, t.store.readWord i = 0) ∧
        ∀ b, 4 * (s.width.toNat * s.height.toNat) ≤ b → t.store.readByte b = s.store.readByte b)

/-- R157: GET's word, its checks in their order, and its effect: WORD is the store's word y · WIDTH + x, and nothing else
changes. -/
def Obligations.GetReadsTheCell : Prop :=
  FormatNCommand 0x11#8 .get ∧ encode .get = 0x11000000#32 ∧
  ∀ s : State,
    (s.readBlocked → exec .get s = .next (s.raise .callbackViolation)) ∧
    (¬ s.readBlocked → s.constructed = false → exec .get s = .next (s.raise .notConstructed)) ∧
    (¬ s.readBlocked → s.constructed = true → ¬ (s.x.toNat < s.width.toNat ∧ s.y.toNat < s.height.toNat) →
      exec .get s = .next (s.raise .coordRange)) ∧
    (¬ s.readBlocked → s.constructed = true → s.x.toNat < s.width.toNat → s.y.toNat < s.height.toNat →
      exec .get s = .next { s with word := s.store.readWord (s.y.toNat * s.width.toNat + s.x.toNat) })

/-- R158: SET's word, its checks in their order, and its effect: the word y · WIDTH + x of the store is WORD, every
byte outside it and every other piece of state is unchanged. Bytes outside a word are named by the model's layout (log
entry 6). -/
def Obligations.SetWritesTheCell : Prop :=
  FormatNCommand 0x12#8 .set ∧ encode .set = 0x12000000#32 ∧
  ∀ s : State,
    (s.trav.active = true → exec .set s = .next (s.raise .callbackViolation)) ∧
    (s.trav.active = false → s.constructed = false → exec .set s = .next (s.raise .notConstructed)) ∧
    (s.trav.active = false → s.constructed = true → ¬ (s.x.toNat < s.width.toNat ∧ s.y.toNat < s.height.toNat) →
      exec .set s = .next (s.raise .coordRange)) ∧
    (s.trav.active = false → s.constructed = true → s.x.toNat < s.width.toNat → s.y.toNat < s.height.toNat →
      ∃ t, exec .set s = .next t ∧ t = { s with store := t.store } ∧
        t.store.readWord (s.y.toNat * s.width.toNat + s.x.toNat) = s.word ∧
        ∀ b, b / 4 ≠ s.y.toNat * s.width.toNat + s.x.toNat → t.store.readByte b = s.store.readByte b)

/-- R159: ACCESS's word, its checks in their order, and its effect: CH_A, CH_B and CH_C are the cell's colour, CH_M, WORD and
everything else are unchanged. -/
def Obligations.AccessReadsTheColour : Prop :=
  FormatNCommand 0x13#8 .access ∧ encode .access = 0x13000000#32 ∧
  ∀ s : State,
    (s.readBlocked → exec .access s = .next (s.raise .callbackViolation)) ∧
    (¬ s.readBlocked → s.constructed = false → exec .access s = .next (s.raise .notConstructed)) ∧
    (¬ s.readBlocked → s.constructed = true → ¬ (s.x.toNat < s.width.toNat ∧ s.y.toNat < s.height.toNat) →
      exec .access s = .next (s.raise .coordRange)) ∧
    (¬ s.readBlocked → s.constructed = true → s.x.toNat < s.width.toNat → s.y.toNat < s.height.toNat →
      ∃ t, exec .access s = .next t ∧ t = { s with chA := t.chA, chB := t.chB, chC := t.chC } ∧
        t.chA = (s.store.readWord (s.y.toNat * s.width.toNat + s.x.toNat)).extractLsb' 24 8 ∧
        t.chB = (s.store.readWord (s.y.toNat * s.width.toNat + s.x.toNat)).extractLsb' 16 8 ∧
        t.chC = (s.store.readWord (s.y.toNat * s.width.toNat + s.x.toNat)).extractLsb' 8 8)

/-- R157 after R158: whatever SET put in a cell, GET reads from it. -/
def Obligations.GetAfterSetReadsWord : Prop :=
  ∀ s t u : State, s.constructed = true → s.trav.active = false → s.x.toNat < s.width.toNat →
    s.y.toNat < s.height.toNat → ∀ v : Word, exec .set s = .next t → exec .get { t with word := v } = .next u →
    u = { t with word := s.word }

/-! ### The traversal engine -/

/-- R171: the visited cells with border b are the set V(b), its bounds on mathematical integers, in increasing y and within
one y in increasing x, each once; with b = 0 they are every cell of the image. -/
def Obligations.VisitedCellsAreRowMajor : Prop :=
  ∀ (s : State) (b : Nat),
    (∀ p : Coord, p ∈ s.visited b ↔ (b : Int) ≤ p.x ∧ (p.x : Int) < (s.width.toNat : Int) - b ∧
      (b : Int) ≤ p.y ∧ (p.y : Int) < (s.height.toNat : Int) - b) ∧
    (s.visited b).Pairwise (fun p q => p.y < q.y ∨ (p.y = q.y ∧ p.x < q.x)) ∧
    (s.visited b).Nodup ∧
    ∀ p : Coord, p ∈ s.visited 0 ↔ p.x < s.width.toNat ∧ p.y < s.height.toNat

/-- R174, which the spec marks derived: the number of visited cells is max(0, W − 2b) · max(0, H − 2b). -/
def Obligations.VisitCountIsTheMaxProduct : Prop :=
  ∀ (s : State) (b : Nat), ((s.visited b).length : Int) =
    max 0 ((s.width.toNat : Int) - 2 * b) * max 0 ((s.height.toNat : Int) - 2 * b)

/-- R175, R181, R182 and R228 for FOREACH, FOREACH_IDX and FOREACH_BOR: the faults in their order, and that a traversal that
visits no cell (W ≤ 2b or H ≤ 2b) completes with no change, whatever its kernel. No word decodes to a KERNEL above 2; that
exec raises ILLEGAL_COMMAND for such a term is the model's choice, deduced from R81 (log entry 10). -/
def Obligations.TraversalChecksAndEmptySets : Prop :=
  ∀ (i : Instr) (md : TravMode) (k : Byte) (b : Nat) (s : State), traversalOf i = some (md, k, b) →
    (2 < k.toNat → exec i s = .next (s.raise .illegalCommand)) ∧
    (k.toNat ≤ 2 → s.trav.active = true → exec i s = .next (s.raise .callbackViolation)) ∧
    (k.toNat ≤ 2 → s.trav.active = false → s.constructed = false → exec i s = .next (s.raise .notConstructed)) ∧
    (k.toNat ≤ 2 → s.trav.active = false → s.constructed = true →
      s.width.toNat ≤ 2 * b ∨ s.height.toNat ≤ 2 * b → exec i s = .next s)

/-- R173 and R176 for FOREACH, FOREACH_IDX and FOREACH_BOR with a built-in kernel: each visited cell is converted once
from the word it held, its Mask kept; no register changes, SPACE included; no byte outside the visited cells changes.
Bytes outside a word are named by the model's layout (log entry 6). The colour functions rest on log entry 11. -/
def Obligations.BuiltinTraversalConvertsVisitedCells : Prop :=
  ∀ (i : Instr) (md : TravMode) (k : Byte) (b : Nat) (s : State), traversalOf i = some (md, k, b) →
    k = 0x01#8 ∨ k = 0x02#8 → s.trav.active = false → s.constructed = true →
    ∃ t, exec i s = .next t ∧ t = { s with store := t.store } ∧
      (∀ p, s.visits b p → ∀ A B C M : Byte, s.pix p = A ++ B ++ C ++ M →
        (k = 0x01#8 → t.pix p = (rgbToHsv A B C).1 ++ (rgbToHsv A B C).2.1 ++ (rgbToHsv A B C).2.2 ++ M) ∧
        (k = 0x02#8 → t.pix p = (hsvToRgb A B C).1 ++ (hsvToRgb A B C).2.1 ++ (hsvToRgb A B C).2.2 ++ M)) ∧
      ∀ a, (∀ p, s.visits b p → s.cellIndex p ≠ a / 4) → t.store.readByte a = s.store.readByte a

/-- R177 for FOREACH, FOREACH_IDX and FOREACH_BOR with the HOST kernel: suspended at the first visited cell, (b, b), with its
pixel in CH_A to CH_M and its coordinate in CUR_X and CUR_Y; all else unchanged, every byte of the store among it. -/
def Obligations.HostTraversalSuspendsAtTheFirstCell : Prop :=
  ∀ (i : Instr) (md : TravMode) (b : Nat) (s : State), traversalOf i = some (md, 0x00#8, b) →
    s.trav.active = false → s.constructed = true → 2 * b < s.width.toNat → 2 * b < s.height.toNat →
    ∃ t, exec i s = .next t ∧ t.trav = ⟨true, md, s.visited b, 0⟩ ∧
      t.curX.toNat = b ∧ t.curY.toNat = b ∧ t.chA ++ t.chB ++ t.chC ++ t.chM = s.pix ⟨b, b⟩ ∧
      t = { s with trav := t.trav, curX := t.curX, curY := t.curY, chA := t.chA, chB := t.chB, chC := t.chC,
                   chM := t.chM }

/-- R179: HOST_DONE's word; its fault with no traversal suspended; at a cell that is not the last, the pack-write and
the next cell presented; at the last, the pack-write and the end of the traversal. The premises on the traversal state
are those R177 to R179 keep (`Inv`); in other states the model stops (log entry 8). Bytes outside a word are named by
the model's layout (log entry 6). -/
def Obligations.HostDoneWritesTheCellAndMovesOn : Prop :=
  FormatNCommand 0x2F#8 .hostDone ∧ encode .hostDone = 0x2F000000#32 ∧
  ∀ s : State,
    (s.trav.active = false → exec .hostDone s = .next (s.raise .callbackViolation)) ∧
    (∀ p, s.trav.active = true → s.constructed = true → s.trav.cells[s.trav.index]? = some p → s.visits 0 p →
      (∀ q, s.trav.cells[s.trav.index + 1]? = some q → s.visits 0 q →
        ∃ t, exec .hostDone s = .next t ∧ t.pix p = s.chA ++ s.chB ++ s.chC ++ s.chM ∧
          (∀ a, a / 4 ≠ s.cellIndex p → t.store.readByte a = s.store.readByte a) ∧
          t.chA ++ t.chB ++ t.chC ++ t.chM = t.pix q ∧
          t = { s with store := t.store, trav := { s.trav with index := s.trav.index + 1 },
                       curX := BitVec.ofNat 16 q.x, curY := BitVec.ofNat 16 q.y,
                       chA := t.chA, chB := t.chB, chC := t.chC, chM := t.chM }) ∧
      (s.trav.index + 1 = s.trav.cells.length →
        ∃ t, exec .hostDone s = .next t ∧ t.pix p = s.chA ++ s.chB ++ s.chC ++ s.chM ∧
          (∀ a, a / 4 ≠ s.cellIndex p → t.store.readByte a = s.store.readByte a) ∧
          t = { s with store := t.store, trav := ⟨false, .foreach, [], 0⟩ }))

/-- R183: CONVERT's words, its checks in their order, its no-op when the tag already is the target, and its effect:
every cell of the image converted once, Masks kept, the tag set, no byte outside the image and nothing else changed.
Bytes outside a word are named by the model's layout (log entry 6). The colour functions rest on log entry 11. -/
def Obligations.ConvertConvertsTheImage : Prop :=
  encode (.convert .rgb) = 0x23000000#32 ∧ encode (.convert .hsv) = 0x23000001#32 ∧
  (∀ w, opcField w = 0x23#8 → w ≠ 0x23000000#32 → w ≠ 0x23000001#32 → decode w = .error .reservedBits) ∧
  ∀ (sp : Space) (s : State),
    (s.trav.active = true → exec (.convert sp) s = .next (s.raise .callbackViolation)) ∧
    (s.trav.active = false → s.constructed = false → exec (.convert sp) s = .next (s.raise .notConstructed)) ∧
    (s.trav.active = false → s.constructed = true → s.space = sp → exec (.convert sp) s = .next s) ∧
    (s.trav.active = false → s.constructed = true → s.space ≠ sp →
      ∃ t, exec (.convert sp) s = .next t ∧ t = { s with store := t.store, space := sp } ∧
        (∀ p, s.visits 0 p → ∀ A B C M : Byte, s.pix p = A ++ B ++ C ++ M →
          (sp = .hsv → t.pix p = (rgbToHsv A B C).1 ++ (rgbToHsv A B C).2.1 ++ (rgbToHsv A B C).2.2 ++ M) ∧
          (sp = .rgb → t.pix p = (hsvToRgb A B C).1 ++ (hsvToRgb A B C).2.1 ++ (hsvToRgb A B C).2.2 ++ M)) ∧
        ∀ a, 4 * (s.width.toNat * s.height.toNat) ≤ a → t.store.readByte a = s.store.readByte a)

/-- R184: a suspended traversal takes one HOST_DONE for each cell that is left. After k of them, k at most the number left,
the device stands k cells further on, or, after exactly that number, the traversal is over; no byte outside the words of
the traversal's cells has changed (bytes by the model's layout, log entry 6). The HOST_DONEs stand on the bus, the model's own
(log entry 1). -/
def Obligations.TraversalTakesOneHostDonePerCell : Prop :=
  ∀ s : State, Inv s → s.fault = false → s.trav.active = true →
    ∀ k, s.trav.index + k ≤ s.trav.cells.length →
      ∃ t, Host.Core.run Sys2Proof.core k { s with bus := List.replicate k (hostCmd .hostDone) } = .next t ∧
        t.bus = [] ∧ t.fault = false ∧
        (s.trav.index + k < s.trav.cells.length → t.trav = { s.trav with index := s.trav.index + k }) ∧
        (s.trav.index + k = s.trav.cells.length → t.trav = ⟨false, .foreach, [], 0⟩) ∧
        ∀ a, (∀ p ∈ s.trav.cells, s.cellIndex p ≠ a / 4) → t.store.readByte a = s.store.readByte a

/-! ### The morphology neighbour counter -/

/-- R201 with R202: CHECKADJ's checks in their order, and its effect: COUNT is how many of the nine cells (X+dx−1, Y+dy−1)
have a live Mask equal to TGT or SEC, and nothing else changes. -/
def Obligations.CheckadjCountsTheNeighbourhood : Prop :=
  (∀ tgt sec : Byte, encode (.checkadj tgt sec) = 0x3000#16 ++ tgt ++ sec) ∧
  (∀ w, opcField w = 0x30#8 → kernelField w ≠ 0 → decode w = .error .reservedBits) ∧
  ∀ (tgt sec : Byte) (s : State),
    (s.readBlocked → exec (.checkadj tgt sec) s = .next (s.raise .callbackViolation)) ∧
    (¬ s.readBlocked → s.constructed = false → exec (.checkadj tgt sec) s = .next (s.raise .notConstructed)) ∧
    (¬ s.readBlocked → s.constructed = true → ¬ s.visits 1 ⟨s.x.toNat, s.y.toNat⟩ →
      exec (.checkadj tgt sec) s = .next (s.raise .coordRange)) ∧
    (¬ s.readBlocked → s.constructed = true → s.visits 1 ⟨s.x.toNat, s.y.toNat⟩ →
      ∃ t, exec (.checkadj tgt sec) s = .next t ∧ t = { s with count := t.count } ∧
        t.count.toNat = ((List.range 9).filter fun n =>
          decide (s.mask ⟨s.x.toNat + n % 3 - 1, s.y.toNat + n / 3 - 1⟩ = tgt ∨
            s.mask ⟨s.x.toNat + n % 3 - 1, s.y.toNat + n / 3 - 1⟩ = sec)).length)

/-- R208's checks in their order. -/
def Obligations.ErodeAndDilateCheckInOrder : Prop :=
  ∀ (i : Instr) (operands : List Byte) (s : State),
    (∃ t d, i = .erode t d ∧ operands = [t, d]) ∨ (∃ t, i = .dilate t ∧ operands = [t]) →
    (s.trav.active = true → exec i s = .next (s.raise .callbackViolation)) ∧
    (s.trav.active = false → s.constructed = false → exec i s = .next (s.raise .notConstructed)) ∧
    (s.trav.active = false → s.constructed = true → 0xFF#8 ∈ operands → exec i s = .next (s.raise .sentinelCollision))

/-- R208 against its closed form R209, which the spec marks derived: ERODE completes, changes only Masks of the
image's cells and the snapshot, and every cell's new Mask is the closed form's. The snapshot holds every cell's old
Mask (R206). Bytes outside a word are named by the model's layout (log entry 6). -/
def Obligations.ErodeIsItsClosedForm : Prop :=
  ∀ (t d : Byte) (s : State), s.trav.active = false → s.constructed = true → t ≠ 0xFF#8 → d ≠ 0xFF#8 →
    ∃ u, exec (.erode t d) s = .next u ∧ u = { s with store := u.store, snap := u.snap } ∧
      (∀ p, s.visits 0 p → u.colour p = s.colour p ∧ u.snap.readByte (s.cellIndex p) = s.mask p ∧
        u.mask p =
          if s.visits 1 p then
            (if s.mask p = t ∧ ∀ x ≤ p.x + 1, ∀ y ≤ p.y + 1, near p ⟨x, y⟩ → s.mask ⟨x, y⟩ = t ∨ s.mask ⟨x, y⟩ = 0xFF#8
             then t else d)
          else (if s.mask p = 0xFF#8 then d else s.mask p)) ∧
      (∀ a, 4 * (s.width.toNat * s.height.toNat) ≤ a → u.store.readByte a = s.store.readByte a) ∧
      ∀ a, s.width.toNat * s.height.toNat ≤ a → u.snap.readByte a = s.snap.readByte a

/-- R210 against its closed form R211, which the spec marks derived: DILATE completes, changes only Masks of the
image's cells and the snapshot, and every cell's new Mask is the closed form's. The snapshot holds every cell's old
Mask (R206). Bytes outside a word are named by the model's layout (log entry 6). -/
def Obligations.DilateIsItsClosedForm : Prop :=
  ∀ (t : Byte) (s : State), s.trav.active = false → s.constructed = true → t ≠ 0xFF#8 →
    ∃ u, exec (.dilate t) s = .next u ∧ u = { s with store := u.store, snap := u.snap } ∧
      (∀ p, s.visits 0 p → u.colour p = s.colour p ∧ u.snap.readByte (s.cellIndex p) = s.mask p ∧
        u.mask p =
          if s.visits 1 p then
            (if s.mask p = t ∨ s.mask p = 0xFF#8 ∨
                ∃ x ≤ p.x + 1, ∃ y ≤ p.y + 1, near p ⟨x, y⟩ ∧ (⟨x, y⟩ : Coord) ≠ p ∧ s.mask ⟨x, y⟩ = t
             then t else s.mask p)
          else (if s.mask p = 0xFF#8 then t else s.mask p)) ∧
      (∀ a, 4 * (s.width.toNat * s.height.toNat) ≤ a → u.store.readByte a = s.store.readByte a) ∧
      ∀ a, s.width.toNat * s.height.toNat ≤ a → u.snap.readByte a = s.snap.readByte a

/-- R212 property 1, which the spec marks derived: after an ERODE or DILATE that faults in no check, no Mask is 0xFF. -/
def Obligations.SentinelNeverLeaks : Prop :=
  ∀ (i : Instr) (s u : State), (∃ t d, i = .erode t d ∧ t ≠ 0xFF#8 ∧ d ≠ 0xFF#8) ∨ (∃ t, i = .dilate t ∧ t ≠ 0xFF#8) →
    s.trav.active = false → s.constructed = true → exec i s = .next u → ∀ p, s.visits 0 p → u.mask p ≠ 0xFF#8

/-- R212 property 2, which the spec marks derived: ERODE leaves every interior cell whose whole 3×3 neighbourhood holds the
target unchanged, and so every region of such cells; and it leaves a cell that is not interior unchanged unless its Mask
is 0xFF. -/
def Obligations.ErodeKeepsUniformRegions : Prop :=
  ∀ (t d : Byte) (s u : State), s.trav.active = false → s.constructed = true → t ≠ 0xFF#8 → d ≠ 0xFF#8 →
    exec (.erode t d) s = .next u →
    (∀ p, s.visits 1 p → (∀ q, near p q → s.mask q = t) → u.pix p = s.pix p) ∧
    ∀ p, s.visits 0 p → ¬ s.visits 1 p → s.mask p ≠ 0xFF#8 → u.pix p = s.pix p

/-- R212 property 3, which the spec marks derived: a solid block of t, all interior, surrounded by d, loses exactly its outer
ring to one ERODE. -/
def Obligations.ErodeShrinksABlockByItsRing : Prop :=
  ∀ (t d : Byte) (x₀ x₁ y₀ y₁ : Nat) (s u : State), s.trav.active = false → s.constructed = true →
    t ≠ 0xFF#8 → d ≠ 0xFF#8 → t ≠ d → 1 ≤ x₀ → x₁ + 1 < s.width.toNat → 1 ≤ y₀ → y₁ + 1 < s.height.toNat →
    (∀ p, s.visits 0 p → s.mask p = if x₀ ≤ p.x ∧ p.x ≤ x₁ ∧ y₀ ≤ p.y ∧ p.y ≤ y₁ then t else d) →
    exec (.erode t d) s = .next u →
    ∀ p, s.visits 0 p → u.mask p = if x₀ < p.x ∧ p.x < x₁ ∧ y₀ < p.y ∧ p.y < y₁ then t else d

/-- R212 property 4, which the spec marks derived: in the same image one DILATE adds exactly the interior cells within
Chebyshev distance 1 of the block; a ring cell on the image's edge stays d. -/
def Obligations.DilateGrowsABlockByItsRing : Prop :=
  ∀ (t d : Byte) (x₀ x₁ y₀ y₁ : Nat) (s u : State), s.trav.active = false → s.constructed = true →
    t ≠ 0xFF#8 → d ≠ 0xFF#8 → t ≠ d → 1 ≤ x₀ → x₀ ≤ x₁ → x₁ + 1 < s.width.toNat → 1 ≤ y₀ → y₀ ≤ y₁ →
    y₁ + 1 < s.height.toNat →
    (∀ p, s.visits 0 p → s.mask p = if x₀ ≤ p.x ∧ p.x ≤ x₁ ∧ y₀ ≤ p.y ∧ p.y ≤ y₁ then t else d) →
    exec (.dilate t) s = .next u →
    ∀ p, s.visits 0 p → u.mask p =
      if s.visits 1 p ∧ x₀ ≤ p.x + 1 ∧ p.x ≤ x₁ + 1 ∧ y₀ ≤ p.y + 1 ∧ p.y ≤ y₁ + 1 then t else d

/-! ### The whole machine -/

/-- R180: at a callback point exactly the listed commands run; every other legal command faults with CALLBACK_VIOLATION, and a
listed one never does. -/
def Obligations.CallbackPointPermitsOnlyItsCommands : Prop :=
  ∀ (i : Instr) (s : State), i.wellFormed = true → s.trav.active = true →
    (permittedAtCallback i s.trav.mode = false → exec i s = .next (s.raise .callbackViolation)) ∧
    (permittedAtCallback i s.trav.mode = true → s.errcode ≠ .callbackViolation →
      ∀ t, exec i s = .next t → t.errcode ≠ .callbackViolation)

/-- R32 and R228 step 3: before construction every image command faults with NOT_CONSTRUCTED, whatever its operands. -/
def Obligations.ImageCommandsNeedAnImage : Prop :=
  ∀ (i : Instr) (s : State), i.wellFormed = true → needsImage i = true → s.trav.active = false → s.constructed = false →
    exec i s = .next (s.raise .notConstructed)

/-- R225 and R231 of every command: a command that newly sets FAULT changes FAULT and ERRCODE and nothing else. -/
def Obligations.FaultingCommandHasNoOtherEffect : Prop :=
  ∀ (i : Instr) (s t : State), s.fault = false → exec i s = .next t → t.fault = true →
    t = { s with fault := true, errcode := t.errcode }

/-- R25, R26, R29: no command changes X, Y, WIDTH, HEIGHT or CAPACITY, and none touches the host's side of the bus.
The bus and the host's last read are the model's own (log entries 1 and 2). -/
def Obligations.NoCommandWritesTheHostsRegisters : Prop :=
  ∀ (i : Instr) (s t : State), exec i s = .next t →
    t.x = s.x ∧ t.y = s.y ∧ t.width = s.width ∧ t.height = s.height ∧ t.capacity = s.capacity ∧ t.bus = s.bus ∧
      t.readData = s.readData

/-- R27, R28 and R33 of every command: only CHECKADJ writes COUNT; only CONSTRUCT and CONVERT write SPACE; only the HOST
kernel's commands write CUR_X, CUR_Y and the traversal state; only ERODE and DILATE write the snapshot. -/
def Obligations.RegistersChangeOnlyThroughTheirWriters : Prop :=
  ∀ (i : Instr) (s t : State), exec i s = .next t →
    ((∀ a b, i ≠ .checkadj a b) → t.count = s.count) ∧
    ((∀ sp, i ≠ .construct sp) → (∀ sp, i ≠ .convert sp) → t.space = s.space) ∧
    ((∀ md b, traversalOf i ≠ some (md, 0x00#8, b)) → i ≠ .hostDone →
      t.curX = s.curX ∧ t.curY = s.curY ∧ t.trav = s.trav) ∧
    ((∀ sp, i ≠ .construct sp) → t.constructed = s.constructed) ∧
    ((∀ a b, i ≠ .erode a b) → (∀ a, i ≠ .dilate a) → t.snap = s.snap)

/-- R26, R32 and R156 of every step but a reset: once constructed, the image stays constructed and its dimensions
stay. A step is the next access on the bus, or idle (log entries 1 and 9). -/
def Obligations.ImageLastsUntilReset : Prop :=
  ∀ (s t : State), s.constructed = true → s.bus.head? ≠ some .reset → step s = .next t →
    t.constructed = true ∧ t.width = s.width ∧ t.height = s.height

/-- R31 and R232 of every step: FAULT, once set, is cleared by the reset event alone, and ERRCODE keeps the first cause. A
write, and a step with no access pending (log entry 9), changes nothing; a read returns its register's value to the host and
changes nothing else. The access leaves the bus and the host's last read is kept, both the model's own (log entries 1 and
2). -/
def Obligations.FaultLastsUntilReset : Prop :=
  ∀ (s t : State), s.fault = true → s.bus.head? ≠ some .reset → step s = .next t →
    t = { s with bus := s.bus.tail, readData := t.readData } ∧
    (∀ off, s.bus.head? = some (.read off) → t.readData = some (s.hostRead off)) ∧
    ((∀ off, s.bus.head? ≠ some (.read off)) → t.readData = s.readData)

/-- Every step keeps the machine invariant, from every state that meets it. -/
def Obligations.EveryStepKeepsTheInvariant : Prop :=
  ∀ s t : State, Inv s → step s = .next t → Inv t

/-- The invariant holds at reset, whatever PIXEL_CAPACITY is. That the store and the snapshot list nothing there is the
model's choice (log entries 4 and 5). -/
def Obligations.ResetMeetsTheInvariant : Prop := Inv State.reset

/-- R10 and R184: from every state of the invariant the next host access completes; the machine stops in none. A step
is the next access on the bus, or idle (log entries 1 and 9). -/
def Obligations.EveryStepCompletes : Prop :=
  ∀ s : State, Inv s → ∃ t, step s = .next t

/-- R38, R40, R55: the store before construction, the words outside the image and the snapshot buffer are
unobservable. Two machines that differ only there answer every access alike, and differ only there afterwards. The
host's last read is the model's own record of an answer (log entry 2). -/
def Obligations.UnspecifiedStorageIsUnobservable : Prop :=
  ∀ s t s' : State, SameObservable s t → step s = .next s' →
    ∃ t', step t = .next t' ∧ SameObservable s' t' ∧ s'.readData = t'.readData ∧ s'.statusWord = t'.statusWord
end

