-- ==== Sys2Proof/Laws/Memory.lean ====
section
/-! SUPPORT. What the byte and word operations of a store do, said once: read after write, the canonical form, its
extensionality, and the traversal of a store. -/

namespace Sys2Proof.Machine

/-! ### Bytes -/

@[simp] theorem Memory.readByte_nil (a : Nat) : Memory.readByte [] a = unlistedByte := rfl

theorem Memory.readByte_cons (k : Nat) (v : Byte) (m : Memory) (a : Nat) :
    Memory.readByte ((k, v) :: m) a = if k = a then v else Memory.readByte m a := rfl

theorem Memory.readByte_of_not_mem {m : Memory} {a : Nat} (h : ∀ c ∈ m, c.1 ≠ a) :
    Memory.readByte m a = unlistedByte := by
  induction m with
  | nil => rfl
  | cons c m ih =>
    obtain ⟨k, v⟩ := c
    rw [Memory.readByte_cons, if_neg (h (k, v) (by simp))]
    exact ih fun c hc => h c (by simp [hc])

/-- A filter on addresses keeps the bytes it keeps and unlists the others. -/
theorem Memory.readByte_filter (p : Nat → Bool) (m : Memory) (a : Nat) :
    Memory.readByte (m.filter fun c => p c.1) a = if p a then Memory.readByte m a else unlistedByte := by
  induction m with
  | nil => simp
  | cons c m ih =>
    obtain ⟨k, v⟩ := c
    by_cases hk : p k = true
    · rw [List.filter_cons_of_pos (by simpa using hk), Memory.readByte_cons, Memory.readByte_cons, ih]
      by_cases hka : k = a
      · subst hka; simp [hk]
      · simp [hka]
    · rw [List.filter_cons_of_neg (by simpa using hk), ih, Memory.readByte_cons]
      by_cases hka : k = a
      · subst hka; simp [hk]
      · simp [hka]

theorem Memory.readByte_erase (m : Memory) (a b : Nat) :
    Memory.readByte (m.erase a) b = if b = a then unlistedByte else Memory.readByte m b := by
  rw [Memory.erase, Memory.readByte_filter (fun k => decide (k ≠ a))]
  by_cases h : b = a <;> simp [h]

theorem Memory.not_mem_erase (m : Memory) (a : Nat) : ∀ c ∈ m.erase a, c.1 ≠ a := by
  intro c hc
  simpa using (List.mem_filter.mp hc).2

theorem Memory.readByte_insert {m : Memory} {a : Nat} (h : ∀ c ∈ m, c.1 ≠ a) (v : Byte) (b : Nat) :
    Memory.readByte (m.insert a v) b = if b = a then v else Memory.readByte m b := by
  induction m with
  | nil => simp [Memory.insert, Memory.readByte_cons, eq_comm]
  | cons c m ih =>
    obtain ⟨k, w⟩ := c
    have hk : k ≠ a := h (k, w) (by simp)
    by_cases hlt : a < k
    · simp [Memory.insert, hlt, Memory.readByte_cons, eq_comm]
    · simp only [Memory.insert, if_neg hlt, Memory.readByte_cons, ih fun c hc => h c (by simp [hc])]
      by_cases hkb : k = b
      · have : b ≠ a := by omega
        simp [hkb, this]
      · simp [hkb]

/-- Read after write, for every store: the written address reads the value, every other one reads as before. -/
@[simp] theorem Memory.readByte_writeByte (m : Memory) (a : Nat) (v : Byte) (b : Nat) :
    (m.writeByte a v).readByte b = if b = a then v else m.readByte b := by
  unfold Memory.writeByte
  by_cases hv : v = unlistedByte
  · rw [if_pos hv, Memory.readByte_erase, hv]
  · rw [if_neg hv, Memory.readByte_insert (Memory.not_mem_erase m a), Memory.readByte_erase]
    by_cases h : b = a <;> simp [h]

/-! ### The canonical form -/

theorem Memory.wf_nil : Memory.wf [] := by simp [Memory.wf]

theorem Memory.wf_filter {m : Memory} (h : m.wf) (p : Host.Cell → Bool) : Memory.wf (m.filter p) :=
  ⟨h.1.filter p, fun c hc => h.2 c (List.mem_filter.mp hc).1⟩

theorem Memory.mem_insert {m : Memory} {a : Nat} {v : Byte} {c : Host.Cell} :
    c ∈ m.insert a v ↔ c = (a, v) ∨ c ∈ m := by
  induction m with
  | nil => simp [Memory.insert]
  | cons d m ih =>
    obtain ⟨k, w⟩ := d
    by_cases hlt : a < k
    · simp [Memory.insert, hlt]
    · simp only [Memory.insert, if_neg hlt, List.mem_cons, ih]
      tauto

theorem Memory.insert_pairwise {m : Memory} {a : Nat} (v : Byte) (hm : m.Pairwise fun c d => c.1 < d.1)
    (h : ∀ c ∈ m, c.1 ≠ a) : (m.insert a v).Pairwise fun c d => c.1 < d.1 := by
  induction m with
  | nil => simp [Memory.insert]
  | cons d m ih =>
    obtain ⟨k, w⟩ := d
    obtain ⟨hd, ht⟩ := List.pairwise_cons.mp hm
    have hk : k ≠ a := h (k, w) (by simp)
    by_cases hlt : a < k
    · rw [Memory.insert, if_pos hlt]
      refine List.pairwise_cons.mpr ⟨fun c hc => ?_, hm⟩
      rcases List.mem_cons.mp hc with rfl | hc
      · exact hlt
      · exact lt_trans hlt (hd c hc)
    · rw [Memory.insert, if_neg hlt]
      refine List.pairwise_cons.mpr ⟨fun c hc => ?_, ih ht fun c hc => h c (by simp [hc])⟩
      rcases Memory.mem_insert.mp hc with rfl | hc
      · show k < a
        omega
      · exact hd c hc

theorem Memory.wf_writeByte {m : Memory} (h : m.wf) (a : Nat) (v : Byte) : (m.writeByte a v).wf := by
  unfold Memory.writeByte
  by_cases hv : v = unlistedByte
  · rw [if_pos hv]; exact Memory.wf_filter h _
  · rw [if_neg hv]
    have he : (m.erase a).wf := Memory.wf_filter h _
    refine ⟨Memory.insert_pairwise v he.1 (Memory.not_mem_erase m a), fun c hc => ?_⟩
    rcases Memory.mem_insert.mp hc with rfl | hc
    · exact hv
    · exact he.2 c hc

theorem Memory.mem_writeByte {m : Memory} {a : Nat} {v : Byte} {c : Host.Cell} (h : c ∈ m.writeByte a v) :
    c.1 = a ∨ c ∈ m := by
  unfold Memory.writeByte at h
  split at h
  · exact .inr (List.mem_filter.mp h).1
  · rcases Memory.mem_insert.mp h with rfl | h
    · exact .inl rfl
    · exact .inr (List.mem_filter.mp h).1

/-- Two stores in canonical form that read alike are equal. -/
theorem Memory.ext_of_wf {m n : Memory} (hm : m.wf) (hn : n.wf) (h : ∀ a, m.readByte a = n.readByte a) : m = n := by
  induction m generalizing n with
  | nil =>
    cases n with
    | nil => rfl
    | cons d n =>
      obtain ⟨k, w⟩ := d
      exact absurd (h k).symm (by simpa [Memory.readByte_cons] using hn.2 (k, w) (by simp))
  | cons c m ih =>
    obtain ⟨j, v⟩ := c
    cases n with
    | nil => exact absurd (h j) (by simpa [Memory.readByte_cons] using hm.2 (j, v) (by simp))
    | cons d n =>
      obtain ⟨k, w⟩ := d
      obtain ⟨hmj, hmt⟩ := List.pairwise_cons.mp hm.1
      obtain ⟨hnk, hnt⟩ := List.pairwise_cons.mp hn.1
      have hv : v ≠ unlistedByte := hm.2 (j, v) (by simp)
      have hw : w ≠ unlistedByte := hn.2 (k, w) (by simp)
      have hjk : j = k := by
        rcases lt_trichotomy j k with hlt | heq | hgt
        · refine absurd ?_ hv
          have := h j
          rw [Memory.readByte_cons, if_pos rfl, Memory.readByte_cons, if_neg (by omega)] at this
          rw [this]
          exact Memory.readByte_of_not_mem fun c hc => by have := hnk c hc; simp only at this; omega
        · exact heq
        · refine absurd ?_ hw
          have := (h k).symm
          rw [Memory.readByte_cons, if_pos rfl, Memory.readByte_cons, if_neg (by omega)] at this
          rw [this]
          exact Memory.readByte_of_not_mem fun c hc => by have := hmj c hc; simp only at this; omega
      subst hjk
      have hvw : v = w := by simpa [Memory.readByte_cons] using h j
      subst hvw
      have htail : m = n := by
        refine ih ⟨hmt, fun c hc => hm.2 c (by simp [hc])⟩ ⟨hnt, fun c hc => hn.2 c (by simp [hc])⟩ fun a => ?_
        by_cases ha : j = a
        · subst ha
          rw [Memory.readByte_of_not_mem fun c hc => by have := hmj c hc; simp only at this; omega,
            Memory.readByte_of_not_mem fun c hc => by have := hnk c hc; simp only at this; omega]
        · simpa [Memory.readByte_cons, ha] using h a
      rw [htail]

/-! ### Words -/

/-- What one byte reads as after a word is written. -/
theorem Memory.readByte_writeWord (m : Memory) (i : Nat) (v : Word) (b : Nat) :
    (m.writeWord i v).readByte b =
      if b = 4 * i + 3 then v.extractLsb' 24 8
      else if b = 4 * i + 2 then v.extractLsb' 16 8
      else if b = 4 * i + 1 then v.extractLsb' 8 8
      else if b = 4 * i then v.extractLsb' 0 8
      else m.readByte b := by
  simp [Memory.writeWord]

/-- The bytes outside word `i` read as before. -/
theorem Memory.readByte_writeWord_of_ne (m : Memory) {i b : Nat} (v : Word) (h : b / 4 ≠ i) :
    (m.writeWord i v).readByte b = m.readByte b := by
  rw [Memory.readByte_writeWord, if_neg (by omega), if_neg (by omega), if_neg (by omega), if_neg (by omega)]

/-- A word is its four lanes. -/
theorem word_eq_lanes (v : Word) :
    (v.extractLsb' 24 8 ++ v.extractLsb' 16 8 ++ v.extractLsb' 8 8 ++ v.extractLsb' 0 8 : BitVec 32) = v := by
  apply BitVec.eq_of_toNat_eq
  simp only [BitVec.toNat_append, BitVec.extractLsb'_toNat, Nat.shiftRight_eq_div_pow]
  have hv := v.isLt
  rw [← Nat.shiftLeft_add_eq_or_of_lt (by omega), ← Nat.shiftLeft_add_eq_or_of_lt (by omega),
    ← Nat.shiftLeft_add_eq_or_of_lt (by omega)]
  simp only [Nat.shiftLeft_eq]
  omega

/-- A word read back is the word written. -/
@[simp] theorem Memory.readWord_writeWord_same (m : Memory) (i : Nat) (v : Word) : (m.writeWord i v).readWord i = v := by
  have h0 : (m.writeWord i v).readByte (4 * i) = v.extractLsb' 0 8 := by
    rw [Memory.readByte_writeWord, if_neg (by omega), if_neg (by omega), if_neg (by omega), if_pos rfl]
  have h1 : (m.writeWord i v).readByte (4 * i + 1) = v.extractLsb' 8 8 := by
    rw [Memory.readByte_writeWord, if_neg (by omega), if_neg (by omega), if_pos rfl]
  have h2 : (m.writeWord i v).readByte (4 * i + 2) = v.extractLsb' 16 8 := by
    rw [Memory.readByte_writeWord, if_neg (by omega), if_pos rfl]
  have h3 : (m.writeWord i v).readByte (4 * i + 3) = v.extractLsb' 24 8 := by
    rw [Memory.readByte_writeWord, if_pos rfl]
  rw [Memory.readWord, h0, h1, h2, h3]
  exact word_eq_lanes v

/-- The other words read as before. -/
theorem Memory.readWord_writeWord_of_ne (m : Memory) {i j : Nat} (v : Word) (h : j ≠ i) :
    (m.writeWord i v).readWord j = m.readWord j := by
  unfold Memory.readWord
  rw [Memory.readByte_writeWord_of_ne m v (by omega), Memory.readByte_writeWord_of_ne m v (by omega),
    Memory.readByte_writeWord_of_ne m v (by omega), Memory.readByte_writeWord_of_ne m v (by omega)]

theorem Memory.wf_writeWord {m : Memory} (h : m.wf) (i : Nat) (v : Word) : (m.writeWord i v).wf := by
  unfold Memory.writeWord
  exact Memory.wf_writeByte (Memory.wf_writeByte (Memory.wf_writeByte (Memory.wf_writeByte h _ _) _ _) _ _) _ _

theorem Memory.mem_writeWord {m : Memory} {i : Nat} {v : Word} {c : Host.Cell} (h : c ∈ m.writeWord i v) :
    c.1 / 4 = i ∨ c ∈ m := by
  unfold Memory.writeWord at h
  rcases Memory.mem_writeByte h with h | h
  · omega
  rcases Memory.mem_writeByte h with h | h
  · omega
  rcases Memory.mem_writeByte h with h | h
  · omega
  rcases Memory.mem_writeByte h with h | h
  · omega
  · exact .inr h

/-- Equal lanes, equal words. -/
theorem Memory.readWord_congr {m n : Memory} {i : Nat}
    (h : ∀ b, b / 4 = i → m.readByte b = n.readByte b) : m.readWord i = n.readWord i := by
  unfold Memory.readWord
  rw [h _ (by omega), h _ (by omega), h _ (by omega), h _ (by omega)]

/-- The byte 4·i + l of a store is lane l of word i. -/
theorem Memory.readByte_eq_lane (m : Memory) (b : Nat) :
    m.readByte b = (m.readWord (b / 4)).extractLsb' (8 * (b % 4)) 8 := by
  have hb : b = 4 * (b / 4) + b % 4 := (Nat.div_add_mod b 4).symm
  have hl : b % 4 < 4 := Nat.mod_lt _ (by norm_num)
  have key : ∀ p q r t : Byte, ∀ l, l < 4 →
      (p ++ q ++ r ++ t : BitVec 32).extractLsb' (8 * l) 8 = if l = 0 then t else if l = 1 then r else if l = 2 then q else p := by
    intro p q r t l hl
    have hp := p.isLt; have hq := q.isLt; have hr := r.isLt; have ht := t.isLt
    have hn : (p ++ q ++ r ++ t : BitVec 32).toNat =
        ((p.toNat * 256 + q.toNat) * 256 + r.toNat) * 256 + t.toNat := by
      simp only [BitVec.toNat_append]
      rw [← Nat.shiftLeft_add_eq_or_of_lt (by omega), ← Nat.shiftLeft_add_eq_or_of_lt (by omega),
        ← Nat.shiftLeft_add_eq_or_of_lt (by omega)]
      simp only [Nat.shiftLeft_eq]
    apply BitVec.eq_of_toNat_eq
    rw [BitVec.extractLsb'_toNat, hn, Nat.shiftRight_eq_div_pow]
    interval_cases l <;> simp <;> omega
  unfold Memory.readWord
  rw [key _ _ _ _ _ hl]
  generalize b % 4 = l at hb hl
  generalize b / 4 = i at hb
  subst hb
  interval_cases l <;> simp

/-! ### CONSTRUCT's zero fill -/

theorem Memory.readByte_zeroWords (m : Memory) (n b : Nat) :
    (m.zeroWords n).readByte b = if 4 * n ≤ b then m.readByte b else unlistedByte := by
  rw [Memory.zeroWords, Memory.readByte_filter (fun k => decide (4 * n ≤ k))]
  by_cases h : 4 * n ≤ b <;> simp [h]

theorem Memory.readWord_zeroWords_of_lt (m : Memory) {n i : Nat} (h : i < n) : (m.zeroWords n).readWord i = 0 := by
  unfold Memory.readWord
  rw [Memory.readByte_zeroWords, Memory.readByte_zeroWords, Memory.readByte_zeroWords, Memory.readByte_zeroWords,
    if_neg (by omega), if_neg (by omega), if_neg (by omega), if_neg (by omega)]
  rfl

theorem Memory.wf_zeroWords {m : Memory} (h : m.wf) (n : Nat) : (m.zeroWords n).wf := Memory.wf_filter h _

theorem Memory.mem_zeroWords {m : Memory} {n : Nat} {c : Host.Cell} (h : c ∈ m.zeroWords n) : c ∈ m :=
  (List.mem_filter.mp h).1

theorem Memory.writeWord_zero (m : Memory) (i : Nat) :
    m.writeWord i 0 = m.filter (fun c => decide (c.1 / 4 ≠ i)) := by
  have hz : ∀ k, (0 : Word).extractLsb' k 8 = unlistedByte := fun k => by simp [unlistedByte]
  unfold Memory.writeWord Memory.writeByte
  simp only [hz, if_pos, Memory.erase, List.filter_filter]
  refine List.filter_congr fun c _ => ?_
  rw [← Bool.decide_and, ← Bool.decide_and, ← Bool.decide_and]
  exact decide_eq_decide.mpr (by omega)

/-- CONSTRUCT's zero fill is the loop of 43_image.md R155. -/
theorem Memory.zeroWords_eq_loop (m : Memory) (n : Nat) :
    m.zeroWords n = (List.range n).foldl (fun m i => m.writeWord i 0) m := by
  induction n with
  | zero => simp [Memory.zeroWords]
  | succ n ih =>
    rw [List.range_succ, List.foldl_append, ← ih, List.foldl_cons, List.foldl_nil, Memory.writeWord_zero,
      Memory.zeroWords, Memory.zeroWords, List.filter_filter]
    refine List.filter_congr fun c _ => ?_
    rw [← Bool.decide_and]
    exact decide_eq_decide.mpr (by omega)

end Sys2Proof.Machine
end

