-- ==== Sys2Proof/Laws/Cells.lean ====
section
/-! SUPPORT. Cells: which cells a border visits, where a cell's word lies, and what a traversal and a Mask snapshot leave
in the store, each said once. -/

namespace Sys2Proof.Machine

/-! ### Visited cells and their words -/

/-- Membership in V(b), with every bound on mathematical integers (44_traversal.md R171). -/
theorem mem_rowMajor {w h b : Nat} {p : Coord} :
    p ∈ rowMajor w h b ↔ b ≤ p.x ∧ p.x + b < w ∧ b ≤ p.y ∧ p.y + b < h := by
  obtain ⟨x, y⟩ := p
  simp only [rowMajor, List.mem_flatMap, List.mem_map, List.mem_range'_1, Coord.mk.injEq]
  constructor
  · rintro ⟨y', hy, x', hx, rfl, rfl⟩
    omega
  · rintro ⟨h1, h2, h3, h4⟩
    exact ⟨y, by omega, x, by omega, rfl, rfl⟩

theorem rowMajor_nodup (w h b : Nat) : (rowMajor w h b).Nodup := by
  unfold rowMajor
  refine List.nodup_flatMap.mpr ⟨fun y _ => ?_, ?_⟩
  · exact List.Nodup.map (fun x x' hx => by simpa using hx) List.nodup_range'
  · refine List.Pairwise.imp ?_ (List.nodup_range' (s := b) (n := h - 2 * b))
    intro y y' hy p hp hp'
    simp only [List.mem_map] at hp hp'
    obtain ⟨x, _, rfl⟩ := hp
    obtain ⟨x', _, hx'⟩ := hp'
    exact hy (by simpa using (congrArg Coord.y hx').symm)

theorem cellIndex_lt {w h : Nat} {p : Coord} (hx : p.x < w) (hy : p.y < h) : cellIndex w p < w * h := by
  unfold cellIndex
  calc p.y * w + p.x < p.y * w + w := by omega
    _ = (p.y + 1) * w := by ring
    _ ≤ h * w := Nat.mul_le_mul_right w hy
    _ = w * h := Nat.mul_comm h w

/-- Different cells of one image lie in different words. -/
theorem cellIndex_inj {w : Nat} {p q : Coord} (hp : p.x < w) (hq : q.x < w) (h : cellIndex w p = cellIndex w q) :
    p = q := by
  obtain ⟨x, y⟩ := p
  obtain ⟨x', y'⟩ := q
  simp only [cellIndex] at h hp hq
  have hxx : x = x' := by
    have h1 : (y * w + x) % w = x := by rw [Nat.mul_comm, Nat.mul_add_mod, Nat.mod_eq_of_lt hp]
    have h2 : (y' * w + x') % w = x' := by rw [Nat.mul_comm, Nat.mul_add_mod, Nat.mod_eq_of_lt hq]
    rw [← h1, ← h2, h]
  subst hxx
  have : y * w = y' * w := by omega
  have hw : 0 < w := by omega
  rw [Nat.eq_of_mul_eq_mul_right hw this]

/-! ### A traversal of the store -/

/-- A traversal changes no byte outside the words of its cells. -/
theorem Memory.readByte_mapCells_of_not_mem {w : Nat} (f : Coord → Word → Word) {cells : List Coord} {b : Nat}
    (h : ∀ p ∈ cells, cellIndex w p ≠ b / 4) (m : Memory) :
    (Memory.mapCells w f cells m).readByte b = m.readByte b := by
  induction cells generalizing m with
  | nil => rfl
  | cons p ps ih =>
    rw [Memory.mapCells, ih (fun q hq => h q (by simp [hq])),
      Memory.readByte_writeWord_of_ne _ _ (fun he => h p (by simp) he.symm)]

theorem Memory.readWord_mapCells_of_not_mem {w : Nat} (f : Coord → Word → Word) {cells : List Coord} {i : Nat}
    (h : ∀ p ∈ cells, cellIndex w p ≠ i) (m : Memory) :
    (Memory.mapCells w f cells m).readWord i = m.readWord i :=
  Memory.readWord_congr fun b hb => Memory.readByte_mapCells_of_not_mem f (fun p hp => by rw [hb]; exact h p hp) m

/-- A traversal of distinct cells of one image writes each visited cell exactly once: `f` of the cell and its word as it
stood before the traversal (44_traversal.md R170). -/
theorem Memory.readWord_mapCells_of_mem {w : Nat} (f : Coord → Word → Word) {cells : List Coord}
    (hw : ∀ p ∈ cells, p.x < w) (hd : cells.Nodup) (m : Memory) {p : Coord} (hp : p ∈ cells) :
    (Memory.mapCells w f cells m).readWord (cellIndex w p) = f p (m.readWord (cellIndex w p)) := by
  induction cells generalizing m with
  | nil => simp at hp
  | cons q qs ih =>
    obtain ⟨hq, hqs⟩ := List.nodup_cons.mp hd
    rw [Memory.mapCells]
    by_cases hpq : p = q
    · subst hpq
      rw [Memory.readWord_mapCells_of_not_mem, Memory.readWord_writeWord_same]
      intro r hr he
      have := cellIndex_inj (hw r (by simp [hr])) (hw p (by simp)) he
      exact hq (this ▸ hr)
    · have hp' : p ∈ qs := by simpa [hpq] using hp
      rw [ih (fun r hr => hw r (by simp [hr])) hqs _ hp', Memory.readWord_writeWord_of_ne]
      exact fun he => hpq (cellIndex_inj (hw p (by simp [hp'])) (hw q (by simp)) he)

/-- Traversals that compute the same words agree on the first `n` words where the stores did. -/
theorem Memory.readWord_mapCells_congr {w n : Nat} {f g : Coord → Word → Word} {cells : List Coord}
    (hidx : ∀ p ∈ cells, cellIndex w p < n) (hfg : ∀ p ∈ cells, ∀ v, f p v = g p v) {m m' : Memory}
    (h : ∀ i < n, m.readWord i = m'.readWord i) :
    ∀ i < n, (Memory.mapCells w f cells m).readWord i = (Memory.mapCells w g cells m').readWord i := by
  induction cells generalizing m m' with
  | nil => exact h
  | cons p ps ih =>
    refine ih (fun q hq => hidx q (by simp [hq])) (fun q hq => hfg q (by simp [hq])) fun i hi => ?_
    by_cases he : i = cellIndex w p
    · subst he
      rw [Memory.readWord_writeWord_same, Memory.readWord_writeWord_same, h _ hi, hfg p (by simp)]
    · rw [Memory.readWord_writeWord_of_ne _ _ he, Memory.readWord_writeWord_of_ne _ _ he, h i hi]

theorem Memory.wf_mapCells {w : Nat} (f : Coord → Word → Word) (cells : List Coord) {m : Memory} (h : m.wf) :
    (Memory.mapCells w f cells m).wf := by
  induction cells generalizing m with
  | nil => exact h
  | cons p ps ih => exact ih (Memory.wf_writeWord h _ _)

theorem Memory.mem_mapCells {w : Nat} {f : Coord → Word → Word} {cells : List Coord} {m : Memory} {c : Host.Cell}
    (h : c ∈ Memory.mapCells w f cells m) : (∃ p ∈ cells, c.1 / 4 = cellIndex w p) ∨ c ∈ m := by
  induction cells generalizing m with
  | nil => exact .inr h
  | cons p ps ih =>
    rcases ih h with ⟨q, hq, he⟩ | h
    · exact .inl ⟨q, by simp [hq], he⟩
    · rcases Memory.mem_writeWord h with h | h
      · exact .inl ⟨p, by simp, h⟩
      · exact .inr h

/-! ### The Mask snapshot -/

theorem Memory.readByte_copyMasks_of_not_mem {w : Nat} (plane : Coord → Byte) {cells : List Coord} {b : Nat}
    (h : ∀ p ∈ cells, cellIndex w p ≠ b) (m : Memory) :
    (Memory.copyMasks w plane cells m).readByte b = m.readByte b := by
  induction cells generalizing m with
  | nil => rfl
  | cons p ps ih =>
    rw [Memory.copyMasks, ih (fun q hq => h q (by simp [hq])), Memory.readByte_writeByte,
      if_neg (fun he => h p (by simp) he.symm)]

/-- A snapshot of distinct cells holds each cell's Mask. -/
theorem Memory.readByte_copyMasks_of_mem {w : Nat} (plane : Coord → Byte) {cells : List Coord}
    (hw : ∀ p ∈ cells, p.x < w) (hd : cells.Nodup) (m : Memory) {p : Coord} (hp : p ∈ cells) :
    (Memory.copyMasks w plane cells m).readByte (cellIndex w p) = plane p := by
  induction cells generalizing m with
  | nil => simp at hp
  | cons q qs ih =>
    obtain ⟨hq, hqs⟩ := List.nodup_cons.mp hd
    rw [Memory.copyMasks]
    by_cases hpq : p = q
    · subst hpq
      rw [Memory.readByte_copyMasks_of_not_mem, Memory.readByte_writeByte, if_pos rfl]
      intro r hr he
      have := cellIndex_inj (hw r (by simp [hr])) (hw p (by simp)) he
      exact hq (this ▸ hr)
    · have hp' : p ∈ qs := by simpa [hpq] using hp
      exact ih (fun r hr => hw r (by simp [hr])) hqs _ hp'

theorem Memory.wf_copyMasks {w : Nat} (plane : Coord → Byte) (cells : List Coord) {m : Memory} (h : m.wf) :
    (Memory.copyMasks w plane cells m).wf := by
  induction cells generalizing m with
  | nil => exact h
  | cons p ps ih => exact ih (Memory.wf_writeByte h _ _)

theorem Memory.mem_copyMasks {w : Nat} {plane : Coord → Byte} {cells : List Coord} {m : Memory} {c : Host.Cell}
    (h : c ∈ Memory.copyMasks w plane cells m) : (∃ p ∈ cells, c.1 = cellIndex w p) ∨ c ∈ m := by
  induction cells generalizing m with
  | nil => exact .inr h
  | cons p ps ih =>
    rcases ih h with ⟨q, hq, he⟩ | h
    · exact .inl ⟨q, by simp [hq], he⟩
    · rcases Memory.mem_writeByte h with h | h
      · exact .inl ⟨p, by simp, h⟩
      · exact .inr h

/-! ### The same, for a machine's own image -/

theorem State.mem_visited {s : State} {b : Nat} {p : Coord} :
    p ∈ s.visited b ↔ b ≤ p.x ∧ p.x + b < s.width.toNat ∧ b ≤ p.y ∧ p.y + b < s.height.toNat := mem_rowMajor

theorem State.visited_nodup (s : State) (b : Nat) : (s.visited b).Nodup := rowMajor_nodup _ _ _

/-- A visited cell lies in the image. -/
theorem State.inImage_of_mem_visited {s : State} {b : Nat} {p : Coord} (h : p ∈ s.visited b) : s.inImage p = true := by
  have := State.mem_visited.mp h
  simp only [State.inImage, Bool.and_eq_true, decide_eq_true_eq]
  omega

theorem State.mem_visited_zero {s : State} {p : Coord} : p ∈ s.visited 0 ↔ s.inImage p = true := by
  simp [State.mem_visited, State.inImage]

/-- The interior cells are exactly V(1) (45_morphology.md R200). -/
theorem State.mem_visited_one {s : State} {p : Coord} : p ∈ s.visited 1 ↔ s.interior p = true := by
  simp only [State.mem_visited, State.interior, Bool.and_eq_true, decide_eq_true_eq]
  omega

theorem State.cellIndex_lt_area {s : State} {p : Coord} (h : s.inImage p = true) :
    s.cellIndex p < s.width.toNat * s.height.toNat := by
  simp only [State.inImage, Bool.and_eq_true, decide_eq_true_eq] at h
  exact cellIndex_lt h.1 h.2

theorem State.cellIndex_inj {s : State} {p q : Coord} (hp : s.inImage p = true) (hq : s.inImage q = true)
    (h : s.cellIndex p = s.cellIndex q) : p = q := by
  simp only [State.inImage, Bool.and_eq_true, decide_eq_true_eq] at hp hq
  exact Machine.cellIndex_inj hp.1 hq.1 h

/-- What a traversal leaves in a visited cell. -/
theorem State.pix_mapCells_of_mem (f : Coord → Word → Word) {b : Nat} {s : State} {p : Coord} (h : p ∈ s.visited b) :
    (s.mapCells f (s.visited b)).pix p = f p (s.pix p) := by
  refine Memory.readWord_mapCells_of_mem f (fun q hq => ?_) (s.visited_nodup b) s.store h
  have := State.mem_visited.mp hq
  omega

/-- What a traversal leaves in the other cells of the image. -/
theorem State.pix_mapCells_of_not_mem (f : Coord → Word → Word) {b : Nat} {s : State} {p : Coord}
    (hp : s.inImage p = true) (h : p ∉ s.visited b) : (s.mapCells f (s.visited b)).pix p = s.pix p := by
  refine Memory.readWord_mapCells_of_not_mem f (fun q hq he => h ?_) s.store
  rw [← State.cellIndex_inj (State.inImage_of_mem_visited hq) hp he]
  exact hq

/-- A traversal changes no byte outside the words of the visited cells. -/
theorem State.readByte_mapCells_of_not_mem (f : Coord → Word → Word) {b : Nat} {s : State} {a : Nat}
    (h : ∀ p ∈ s.visited b, s.cellIndex p ≠ a / 4) :
    (s.mapCells f (s.visited b)).store.readByte a = s.store.readByte a :=
  Memory.readByte_mapCells_of_not_mem f h s.store

/-- The snapshot holds every cell's Mask (45_morphology.md R206). -/
theorem State.snapMask_takeSnapshot {s : State} {p : Coord} (h : s.inImage p = true) :
    s.takeSnapshot.snapMask p = s.liveMask p := by
  refine Memory.readByte_copyMasks_of_mem s.liveMask (fun q hq => ?_) (s.visited_nodup 0) s.snap
    (State.mem_visited_zero.mpr h)
  have := State.mem_visited.mp hq
  omega

/-- A cell's word after one cell is written. -/
theorem State.pix_setPix {s : State} {p q : Coord} (w : Word) (hp : s.inImage p = true) (hq : s.inImage q = true) :
    (s.setPix p w).pix q = if q = p then w else s.pix q := by
  by_cases h : q = p
  · subst h
    rw [if_pos rfl]
    exact Memory.readWord_writeWord_same _ _ _
  · rw [if_neg h]
    exact Memory.readWord_writeWord_of_ne _ _ fun he => h (State.cellIndex_inj hq hp he)

/-- The nine cells of an interior cell's neighbourhood lie in the image (45_morphology.md R200). -/
theorem State.inImage_of_mem_neighbourhood {s : State} {p q : Coord} (hp : s.interior p = true)
    (hq : q ∈ neighbourhood p) : s.inImage q = true := by
  simp only [State.interior, Bool.and_eq_true, decide_eq_true_eq] at hp
  simp only [neighbourhood, List.mem_flatMap, List.mem_map] at hq
  obtain ⟨dy, hdy, dx, hdx, rfl⟩ := hq
  have h1 : dy ≤ 2 := by simp only [List.mem_cons, List.not_mem_nil, or_false] at hdy; omega
  have h2 : dx ≤ 2 := by simp only [List.mem_cons, List.not_mem_nil, or_false] at hdx; omega
  simp only [State.inImage, Bool.and_eq_true, decide_eq_true_eq]
  omega

theorem neighbourhood_length (p : Coord) : (neighbourhood p).length = 9 := rfl

/-- A neighbour count is an integer 0 to 9 (45_morphology.md R202). -/
theorem neighbourCount_le (plane : Coord → Byte) (p : Coord) (t s : Byte) : neighbourCount plane p t s ≤ 9 :=
  List.countP_le_length.trans (neighbourhood_length p).le

/-- The count reads the plane at the nine cells only. -/
theorem neighbourCount_congr {plane plane' : Coord → Byte} {p : Coord} (h : ∀ q ∈ neighbourhood p, plane q = plane' q)
    (t s : Byte) : neighbourCount plane p t s = neighbourCount plane' p t s := by
  unfold neighbourCount
  exact List.countP_congr fun q hq => by rw [h q hq]

/-- The count is 9 exactly when every cell of the neighbourhood matches. -/
theorem neighbourCount_eq_nine {plane : Coord → Byte} {p : Coord} {t s : Byte} :
    neighbourCount plane p t s = 9 ↔ ∀ q ∈ neighbourhood p, plane q = t ∨ plane q = s := by
  unfold neighbourCount
  rw [← neighbourhood_length p, List.countP_eq_length]
  simp

/-- The count is positive exactly when some cell of the neighbourhood matches. -/
theorem neighbourCount_pos {plane : Coord → Byte} {p : Coord} {t s : Byte} :
    0 < neighbourCount plane p t s ↔ ∃ q ∈ neighbourhood p, plane q = t ∨ plane q = s := by
  unfold neighbourCount
  rw [List.countP_pos_iff]
  simp

end Sys2Proof.Machine
end

