-- ==== Sys2Proof/Laws/State.lean ====
section
/-! SUPPORT. One lemma per field per update of the state, each true by rfl, so that no later proof unfolds a record update. -/

namespace Sys2Proof.Machine

/-! ### raise -/

@[simp] theorem State.raise_fault (e : ErrCode) (s : State) : (s.raise e).fault = true := rfl
@[simp] theorem State.raise_errcode (e : ErrCode) (s : State) : (s.raise e).errcode = if s.fault then s.errcode else e := rfl
@[simp] theorem State.raise_constructed (e : ErrCode) (s : State) : (s.raise e).constructed = s.constructed := rfl
@[simp] theorem State.raise_space (e : ErrCode) (s : State) : (s.raise e).space = s.space := rfl
@[simp] theorem State.raise_word (e : ErrCode) (s : State) : (s.raise e).word = s.word := rfl
@[simp] theorem State.raise_chA (e : ErrCode) (s : State) : (s.raise e).chA = s.chA := rfl
@[simp] theorem State.raise_chB (e : ErrCode) (s : State) : (s.raise e).chB = s.chB := rfl
@[simp] theorem State.raise_chC (e : ErrCode) (s : State) : (s.raise e).chC = s.chC := rfl
@[simp] theorem State.raise_chM (e : ErrCode) (s : State) : (s.raise e).chM = s.chM := rfl
@[simp] theorem State.raise_x (e : ErrCode) (s : State) : (s.raise e).x = s.x := rfl
@[simp] theorem State.raise_y (e : ErrCode) (s : State) : (s.raise e).y = s.y := rfl
@[simp] theorem State.raise_width (e : ErrCode) (s : State) : (s.raise e).width = s.width := rfl
@[simp] theorem State.raise_height (e : ErrCode) (s : State) : (s.raise e).height = s.height := rfl
@[simp] theorem State.raise_curX (e : ErrCode) (s : State) : (s.raise e).curX = s.curX := rfl
@[simp] theorem State.raise_curY (e : ErrCode) (s : State) : (s.raise e).curY = s.curY := rfl
@[simp] theorem State.raise_count (e : ErrCode) (s : State) : (s.raise e).count = s.count := rfl
@[simp] theorem State.raise_capacity (e : ErrCode) (s : State) : (s.raise e).capacity = s.capacity := rfl
@[simp] theorem State.raise_trav (e : ErrCode) (s : State) : (s.raise e).trav = s.trav := rfl
@[simp] theorem State.raise_store (e : ErrCode) (s : State) : (s.raise e).store = s.store := rfl
@[simp] theorem State.raise_snap (e : ErrCode) (s : State) : (s.raise e).snap = s.snap := rfl
@[simp] theorem State.raise_bus (e : ErrCode) (s : State) : (s.raise e).bus = s.bus := rfl
@[simp] theorem State.raise_readData (e : ErrCode) (s : State) : (s.raise e).readData = s.readData := rfl

/-! ### setPix -/

@[simp] theorem State.setPix_fault (s : State) (p : Coord) (w : Word) : (s.setPix p w).fault = s.fault := rfl
@[simp] theorem State.setPix_errcode (s : State) (p : Coord) (w : Word) : (s.setPix p w).errcode = s.errcode := rfl
@[simp] theorem State.setPix_constructed (s : State) (p : Coord) (w : Word) : (s.setPix p w).constructed = s.constructed := rfl
@[simp] theorem State.setPix_space (s : State) (p : Coord) (w : Word) : (s.setPix p w).space = s.space := rfl
@[simp] theorem State.setPix_word (s : State) (p : Coord) (w : Word) : (s.setPix p w).word = s.word := rfl
@[simp] theorem State.setPix_chA (s : State) (p : Coord) (w : Word) : (s.setPix p w).chA = s.chA := rfl
@[simp] theorem State.setPix_chB (s : State) (p : Coord) (w : Word) : (s.setPix p w).chB = s.chB := rfl
@[simp] theorem State.setPix_chC (s : State) (p : Coord) (w : Word) : (s.setPix p w).chC = s.chC := rfl
@[simp] theorem State.setPix_chM (s : State) (p : Coord) (w : Word) : (s.setPix p w).chM = s.chM := rfl
@[simp] theorem State.setPix_x (s : State) (p : Coord) (w : Word) : (s.setPix p w).x = s.x := rfl
@[simp] theorem State.setPix_y (s : State) (p : Coord) (w : Word) : (s.setPix p w).y = s.y := rfl
@[simp] theorem State.setPix_width (s : State) (p : Coord) (w : Word) : (s.setPix p w).width = s.width := rfl
@[simp] theorem State.setPix_height (s : State) (p : Coord) (w : Word) : (s.setPix p w).height = s.height := rfl
@[simp] theorem State.setPix_curX (s : State) (p : Coord) (w : Word) : (s.setPix p w).curX = s.curX := rfl
@[simp] theorem State.setPix_curY (s : State) (p : Coord) (w : Word) : (s.setPix p w).curY = s.curY := rfl
@[simp] theorem State.setPix_count (s : State) (p : Coord) (w : Word) : (s.setPix p w).count = s.count := rfl
@[simp] theorem State.setPix_capacity (s : State) (p : Coord) (w : Word) : (s.setPix p w).capacity = s.capacity := rfl
@[simp] theorem State.setPix_trav (s : State) (p : Coord) (w : Word) : (s.setPix p w).trav = s.trav := rfl
@[simp] theorem State.setPix_store (s : State) (p : Coord) (w : Word) : (s.setPix p w).store = s.store.writeWord (s.cellIndex p) w := rfl
@[simp] theorem State.setPix_snap (s : State) (p : Coord) (w : Word) : (s.setPix p w).snap = s.snap := rfl
@[simp] theorem State.setPix_bus (s : State) (p : Coord) (w : Word) : (s.setPix p w).bus = s.bus := rfl
@[simp] theorem State.setPix_readData (s : State) (p : Coord) (w : Word) : (s.setPix p w).readData = s.readData := rfl

/-! ### mapCells -/

@[simp] theorem State.mapCells_fault (f : Coord → Word → Word) (cells : List Coord) (s : State) : (s.mapCells f cells).fault = s.fault := rfl
@[simp] theorem State.mapCells_errcode (f : Coord → Word → Word) (cells : List Coord) (s : State) : (s.mapCells f cells).errcode = s.errcode := rfl
@[simp] theorem State.mapCells_constructed (f : Coord → Word → Word) (cells : List Coord) (s : State) : (s.mapCells f cells).constructed = s.constructed := rfl
@[simp] theorem State.mapCells_space (f : Coord → Word → Word) (cells : List Coord) (s : State) : (s.mapCells f cells).space = s.space := rfl
@[simp] theorem State.mapCells_word (f : Coord → Word → Word) (cells : List Coord) (s : State) : (s.mapCells f cells).word = s.word := rfl
@[simp] theorem State.mapCells_chA (f : Coord → Word → Word) (cells : List Coord) (s : State) : (s.mapCells f cells).chA = s.chA := rfl
@[simp] theorem State.mapCells_chB (f : Coord → Word → Word) (cells : List Coord) (s : State) : (s.mapCells f cells).chB = s.chB := rfl
@[simp] theorem State.mapCells_chC (f : Coord → Word → Word) (cells : List Coord) (s : State) : (s.mapCells f cells).chC = s.chC := rfl
@[simp] theorem State.mapCells_chM (f : Coord → Word → Word) (cells : List Coord) (s : State) : (s.mapCells f cells).chM = s.chM := rfl
@[simp] theorem State.mapCells_x (f : Coord → Word → Word) (cells : List Coord) (s : State) : (s.mapCells f cells).x = s.x := rfl
@[simp] theorem State.mapCells_y (f : Coord → Word → Word) (cells : List Coord) (s : State) : (s.mapCells f cells).y = s.y := rfl
@[simp] theorem State.mapCells_width (f : Coord → Word → Word) (cells : List Coord) (s : State) : (s.mapCells f cells).width = s.width := rfl
@[simp] theorem State.mapCells_height (f : Coord → Word → Word) (cells : List Coord) (s : State) : (s.mapCells f cells).height = s.height := rfl
@[simp] theorem State.mapCells_curX (f : Coord → Word → Word) (cells : List Coord) (s : State) : (s.mapCells f cells).curX = s.curX := rfl
@[simp] theorem State.mapCells_curY (f : Coord → Word → Word) (cells : List Coord) (s : State) : (s.mapCells f cells).curY = s.curY := rfl
@[simp] theorem State.mapCells_count (f : Coord → Word → Word) (cells : List Coord) (s : State) : (s.mapCells f cells).count = s.count := rfl
@[simp] theorem State.mapCells_capacity (f : Coord → Word → Word) (cells : List Coord) (s : State) : (s.mapCells f cells).capacity = s.capacity := rfl
@[simp] theorem State.mapCells_trav (f : Coord → Word → Word) (cells : List Coord) (s : State) : (s.mapCells f cells).trav = s.trav := rfl
@[simp] theorem State.mapCells_store (f : Coord → Word → Word) (cells : List Coord) (s : State) : (s.mapCells f cells).store = Memory.mapCells s.width.toNat f cells s.store := rfl
@[simp] theorem State.mapCells_snap (f : Coord → Word → Word) (cells : List Coord) (s : State) : (s.mapCells f cells).snap = s.snap := rfl
@[simp] theorem State.mapCells_bus (f : Coord → Word → Word) (cells : List Coord) (s : State) : (s.mapCells f cells).bus = s.bus := rfl
@[simp] theorem State.mapCells_readData (f : Coord → Word → Word) (cells : List Coord) (s : State) : (s.mapCells f cells).readData = s.readData := rfl

/-! ### takeSnapshot -/

@[simp] theorem State.takeSnapshot_fault (s : State) : s.takeSnapshot.fault = s.fault := rfl
@[simp] theorem State.takeSnapshot_errcode (s : State) : s.takeSnapshot.errcode = s.errcode := rfl
@[simp] theorem State.takeSnapshot_constructed (s : State) : s.takeSnapshot.constructed = s.constructed := rfl
@[simp] theorem State.takeSnapshot_space (s : State) : s.takeSnapshot.space = s.space := rfl
@[simp] theorem State.takeSnapshot_word (s : State) : s.takeSnapshot.word = s.word := rfl
@[simp] theorem State.takeSnapshot_chA (s : State) : s.takeSnapshot.chA = s.chA := rfl
@[simp] theorem State.takeSnapshot_chB (s : State) : s.takeSnapshot.chB = s.chB := rfl
@[simp] theorem State.takeSnapshot_chC (s : State) : s.takeSnapshot.chC = s.chC := rfl
@[simp] theorem State.takeSnapshot_chM (s : State) : s.takeSnapshot.chM = s.chM := rfl
@[simp] theorem State.takeSnapshot_x (s : State) : s.takeSnapshot.x = s.x := rfl
@[simp] theorem State.takeSnapshot_y (s : State) : s.takeSnapshot.y = s.y := rfl
@[simp] theorem State.takeSnapshot_width (s : State) : s.takeSnapshot.width = s.width := rfl
@[simp] theorem State.takeSnapshot_height (s : State) : s.takeSnapshot.height = s.height := rfl
@[simp] theorem State.takeSnapshot_curX (s : State) : s.takeSnapshot.curX = s.curX := rfl
@[simp] theorem State.takeSnapshot_curY (s : State) : s.takeSnapshot.curY = s.curY := rfl
@[simp] theorem State.takeSnapshot_count (s : State) : s.takeSnapshot.count = s.count := rfl
@[simp] theorem State.takeSnapshot_capacity (s : State) : s.takeSnapshot.capacity = s.capacity := rfl
@[simp] theorem State.takeSnapshot_trav (s : State) : s.takeSnapshot.trav = s.trav := rfl
@[simp] theorem State.takeSnapshot_store (s : State) : s.takeSnapshot.store = s.store := rfl
@[simp] theorem State.takeSnapshot_snap (s : State) : s.takeSnapshot.snap = Memory.copyMasks s.width.toNat s.liveMask (s.visited 0) s.snap := rfl
@[simp] theorem State.takeSnapshot_bus (s : State) : s.takeSnapshot.bus = s.bus := rfl
@[simp] theorem State.takeSnapshot_readData (s : State) : s.takeSnapshot.readData = s.readData := rfl

/-! ### setChannels -/

@[simp] theorem State.setChannels_fault (p : Pixel) (s : State) : (s.setChannels p).fault = s.fault := rfl
@[simp] theorem State.setChannels_errcode (p : Pixel) (s : State) : (s.setChannels p).errcode = s.errcode := rfl
@[simp] theorem State.setChannels_constructed (p : Pixel) (s : State) : (s.setChannels p).constructed = s.constructed := rfl
@[simp] theorem State.setChannels_space (p : Pixel) (s : State) : (s.setChannels p).space = s.space := rfl
@[simp] theorem State.setChannels_word (p : Pixel) (s : State) : (s.setChannels p).word = s.word := rfl
@[simp] theorem State.setChannels_chA (p : Pixel) (s : State) : (s.setChannels p).chA = p.a := rfl
@[simp] theorem State.setChannels_chB (p : Pixel) (s : State) : (s.setChannels p).chB = p.b := rfl
@[simp] theorem State.setChannels_chC (p : Pixel) (s : State) : (s.setChannels p).chC = p.c := rfl
@[simp] theorem State.setChannels_chM (p : Pixel) (s : State) : (s.setChannels p).chM = p.m := rfl
@[simp] theorem State.setChannels_x (p : Pixel) (s : State) : (s.setChannels p).x = s.x := rfl
@[simp] theorem State.setChannels_y (p : Pixel) (s : State) : (s.setChannels p).y = s.y := rfl
@[simp] theorem State.setChannels_width (p : Pixel) (s : State) : (s.setChannels p).width = s.width := rfl
@[simp] theorem State.setChannels_height (p : Pixel) (s : State) : (s.setChannels p).height = s.height := rfl
@[simp] theorem State.setChannels_curX (p : Pixel) (s : State) : (s.setChannels p).curX = s.curX := rfl
@[simp] theorem State.setChannels_curY (p : Pixel) (s : State) : (s.setChannels p).curY = s.curY := rfl
@[simp] theorem State.setChannels_count (p : Pixel) (s : State) : (s.setChannels p).count = s.count := rfl
@[simp] theorem State.setChannels_capacity (p : Pixel) (s : State) : (s.setChannels p).capacity = s.capacity := rfl
@[simp] theorem State.setChannels_trav (p : Pixel) (s : State) : (s.setChannels p).trav = s.trav := rfl
@[simp] theorem State.setChannels_store (p : Pixel) (s : State) : (s.setChannels p).store = s.store := rfl
@[simp] theorem State.setChannels_snap (p : Pixel) (s : State) : (s.setChannels p).snap = s.snap := rfl
@[simp] theorem State.setChannels_bus (p : Pixel) (s : State) : (s.setChannels p).bus = s.bus := rfl
@[simp] theorem State.setChannels_readData (p : Pixel) (s : State) : (s.setChannels p).readData = s.readData := rfl

/-! ### setColour -/

@[simp] theorem State.setColour_fault (c : Byte × Byte × Byte) (s : State) : (s.setColour c).fault = s.fault := rfl
@[simp] theorem State.setColour_errcode (c : Byte × Byte × Byte) (s : State) : (s.setColour c).errcode = s.errcode := rfl
@[simp] theorem State.setColour_constructed (c : Byte × Byte × Byte) (s : State) : (s.setColour c).constructed = s.constructed := rfl
@[simp] theorem State.setColour_space (c : Byte × Byte × Byte) (s : State) : (s.setColour c).space = s.space := rfl
@[simp] theorem State.setColour_word (c : Byte × Byte × Byte) (s : State) : (s.setColour c).word = s.word := rfl
@[simp] theorem State.setColour_chA (c : Byte × Byte × Byte) (s : State) : (s.setColour c).chA = c.1 := rfl
@[simp] theorem State.setColour_chB (c : Byte × Byte × Byte) (s : State) : (s.setColour c).chB = c.2.1 := rfl
@[simp] theorem State.setColour_chC (c : Byte × Byte × Byte) (s : State) : (s.setColour c).chC = c.2.2 := rfl
@[simp] theorem State.setColour_chM (c : Byte × Byte × Byte) (s : State) : (s.setColour c).chM = s.chM := rfl
@[simp] theorem State.setColour_x (c : Byte × Byte × Byte) (s : State) : (s.setColour c).x = s.x := rfl
@[simp] theorem State.setColour_y (c : Byte × Byte × Byte) (s : State) : (s.setColour c).y = s.y := rfl
@[simp] theorem State.setColour_width (c : Byte × Byte × Byte) (s : State) : (s.setColour c).width = s.width := rfl
@[simp] theorem State.setColour_height (c : Byte × Byte × Byte) (s : State) : (s.setColour c).height = s.height := rfl
@[simp] theorem State.setColour_curX (c : Byte × Byte × Byte) (s : State) : (s.setColour c).curX = s.curX := rfl
@[simp] theorem State.setColour_curY (c : Byte × Byte × Byte) (s : State) : (s.setColour c).curY = s.curY := rfl
@[simp] theorem State.setColour_count (c : Byte × Byte × Byte) (s : State) : (s.setColour c).count = s.count := rfl
@[simp] theorem State.setColour_capacity (c : Byte × Byte × Byte) (s : State) : (s.setColour c).capacity = s.capacity := rfl
@[simp] theorem State.setColour_trav (c : Byte × Byte × Byte) (s : State) : (s.setColour c).trav = s.trav := rfl
@[simp] theorem State.setColour_store (c : Byte × Byte × Byte) (s : State) : (s.setColour c).store = s.store := rfl
@[simp] theorem State.setColour_snap (c : Byte × Byte × Byte) (s : State) : (s.setColour c).snap = s.snap := rfl
@[simp] theorem State.setColour_bus (c : Byte × Byte × Byte) (s : State) : (s.setColour c).bus = s.bus := rfl
@[simp] theorem State.setColour_readData (c : Byte × Byte × Byte) (s : State) : (s.setColour c).readData = s.readData := rfl

/-! ### present -/

@[simp] theorem State.present_fault (p : Coord) (s : State) : (s.present p).fault = s.fault := rfl
@[simp] theorem State.present_errcode (p : Coord) (s : State) : (s.present p).errcode = s.errcode := rfl
@[simp] theorem State.present_constructed (p : Coord) (s : State) : (s.present p).constructed = s.constructed := rfl
@[simp] theorem State.present_space (p : Coord) (s : State) : (s.present p).space = s.space := rfl
@[simp] theorem State.present_word (p : Coord) (s : State) : (s.present p).word = s.word := rfl
@[simp] theorem State.present_chA (p : Coord) (s : State) : (s.present p).chA = (unpack (s.pix p)).a := rfl
@[simp] theorem State.present_chB (p : Coord) (s : State) : (s.present p).chB = (unpack (s.pix p)).b := rfl
@[simp] theorem State.present_chC (p : Coord) (s : State) : (s.present p).chC = (unpack (s.pix p)).c := rfl
@[simp] theorem State.present_chM (p : Coord) (s : State) : (s.present p).chM = (unpack (s.pix p)).m := rfl
@[simp] theorem State.present_x (p : Coord) (s : State) : (s.present p).x = s.x := rfl
@[simp] theorem State.present_y (p : Coord) (s : State) : (s.present p).y = s.y := rfl
@[simp] theorem State.present_width (p : Coord) (s : State) : (s.present p).width = s.width := rfl
@[simp] theorem State.present_height (p : Coord) (s : State) : (s.present p).height = s.height := rfl
@[simp] theorem State.present_curX (p : Coord) (s : State) : (s.present p).curX = BitVec.ofNat 16 p.x := rfl
@[simp] theorem State.present_curY (p : Coord) (s : State) : (s.present p).curY = BitVec.ofNat 16 p.y := rfl
@[simp] theorem State.present_count (p : Coord) (s : State) : (s.present p).count = s.count := rfl
@[simp] theorem State.present_capacity (p : Coord) (s : State) : (s.present p).capacity = s.capacity := rfl
@[simp] theorem State.present_trav (p : Coord) (s : State) : (s.present p).trav = s.trav := rfl
@[simp] theorem State.present_store (p : Coord) (s : State) : (s.present p).store = s.store := rfl
@[simp] theorem State.present_snap (p : Coord) (s : State) : (s.present p).snap = s.snap := rfl
@[simp] theorem State.present_bus (p : Coord) (s : State) : (s.present p).bus = s.bus := rfl
@[simp] theorem State.present_readData (p : Coord) (s : State) : (s.present p).readData = s.readData := rfl

/-! ### traverseBuiltin -/

@[simp] theorem State.traverseBuiltin_fault (f : Word → Word) (b : Nat) (s : State) : (s.traverseBuiltin f b).fault = s.fault := rfl
@[simp] theorem State.traverseBuiltin_errcode (f : Word → Word) (b : Nat) (s : State) : (s.traverseBuiltin f b).errcode = s.errcode := rfl
@[simp] theorem State.traverseBuiltin_constructed (f : Word → Word) (b : Nat) (s : State) : (s.traverseBuiltin f b).constructed = s.constructed := rfl
@[simp] theorem State.traverseBuiltin_space (f : Word → Word) (b : Nat) (s : State) : (s.traverseBuiltin f b).space = s.space := rfl
@[simp] theorem State.traverseBuiltin_word (f : Word → Word) (b : Nat) (s : State) : (s.traverseBuiltin f b).word = s.word := rfl
@[simp] theorem State.traverseBuiltin_chA (f : Word → Word) (b : Nat) (s : State) : (s.traverseBuiltin f b).chA = s.chA := rfl
@[simp] theorem State.traverseBuiltin_chB (f : Word → Word) (b : Nat) (s : State) : (s.traverseBuiltin f b).chB = s.chB := rfl
@[simp] theorem State.traverseBuiltin_chC (f : Word → Word) (b : Nat) (s : State) : (s.traverseBuiltin f b).chC = s.chC := rfl
@[simp] theorem State.traverseBuiltin_chM (f : Word → Word) (b : Nat) (s : State) : (s.traverseBuiltin f b).chM = s.chM := rfl
@[simp] theorem State.traverseBuiltin_x (f : Word → Word) (b : Nat) (s : State) : (s.traverseBuiltin f b).x = s.x := rfl
@[simp] theorem State.traverseBuiltin_y (f : Word → Word) (b : Nat) (s : State) : (s.traverseBuiltin f b).y = s.y := rfl
@[simp] theorem State.traverseBuiltin_width (f : Word → Word) (b : Nat) (s : State) : (s.traverseBuiltin f b).width = s.width := rfl
@[simp] theorem State.traverseBuiltin_height (f : Word → Word) (b : Nat) (s : State) : (s.traverseBuiltin f b).height = s.height := rfl
@[simp] theorem State.traverseBuiltin_curX (f : Word → Word) (b : Nat) (s : State) : (s.traverseBuiltin f b).curX = s.curX := rfl
@[simp] theorem State.traverseBuiltin_curY (f : Word → Word) (b : Nat) (s : State) : (s.traverseBuiltin f b).curY = s.curY := rfl
@[simp] theorem State.traverseBuiltin_count (f : Word → Word) (b : Nat) (s : State) : (s.traverseBuiltin f b).count = s.count := rfl
@[simp] theorem State.traverseBuiltin_capacity (f : Word → Word) (b : Nat) (s : State) : (s.traverseBuiltin f b).capacity = s.capacity := rfl
@[simp] theorem State.traverseBuiltin_trav (f : Word → Word) (b : Nat) (s : State) : (s.traverseBuiltin f b).trav = s.trav := rfl
@[simp] theorem State.traverseBuiltin_store (f : Word → Word) (b : Nat) (s : State) : (s.traverseBuiltin f b).store = Memory.mapCells s.width.toNat (fun _ w => f w) (s.visited b) s.store := rfl
@[simp] theorem State.traverseBuiltin_snap (f : Word → Word) (b : Nat) (s : State) : (s.traverseBuiltin f b).snap = s.snap := rfl
@[simp] theorem State.traverseBuiltin_bus (f : Word → Word) (b : Nat) (s : State) : (s.traverseBuiltin f b).bus = s.bus := rfl
@[simp] theorem State.traverseBuiltin_readData (f : Word → Word) (b : Nat) (s : State) : (s.traverseBuiltin f b).readData = s.readData := rfl

/-! ### endTraversal -/

@[simp] theorem State.endTraversal_fault (s : State) : s.endTraversal.fault = s.fault := rfl
@[simp] theorem State.endTraversal_errcode (s : State) : s.endTraversal.errcode = s.errcode := rfl
@[simp] theorem State.endTraversal_constructed (s : State) : s.endTraversal.constructed = s.constructed := rfl
@[simp] theorem State.endTraversal_space (s : State) : s.endTraversal.space = s.space := rfl
@[simp] theorem State.endTraversal_word (s : State) : s.endTraversal.word = s.word := rfl
@[simp] theorem State.endTraversal_chA (s : State) : s.endTraversal.chA = s.chA := rfl
@[simp] theorem State.endTraversal_chB (s : State) : s.endTraversal.chB = s.chB := rfl
@[simp] theorem State.endTraversal_chC (s : State) : s.endTraversal.chC = s.chC := rfl
@[simp] theorem State.endTraversal_chM (s : State) : s.endTraversal.chM = s.chM := rfl
@[simp] theorem State.endTraversal_x (s : State) : s.endTraversal.x = s.x := rfl
@[simp] theorem State.endTraversal_y (s : State) : s.endTraversal.y = s.y := rfl
@[simp] theorem State.endTraversal_width (s : State) : s.endTraversal.width = s.width := rfl
@[simp] theorem State.endTraversal_height (s : State) : s.endTraversal.height = s.height := rfl
@[simp] theorem State.endTraversal_curX (s : State) : s.endTraversal.curX = s.curX := rfl
@[simp] theorem State.endTraversal_curY (s : State) : s.endTraversal.curY = s.curY := rfl
@[simp] theorem State.endTraversal_count (s : State) : s.endTraversal.count = s.count := rfl
@[simp] theorem State.endTraversal_capacity (s : State) : s.endTraversal.capacity = s.capacity := rfl
@[simp] theorem State.endTraversal_trav (s : State) : s.endTraversal.trav = ⟨false, .foreach, [], 0⟩ := rfl
@[simp] theorem State.endTraversal_store (s : State) : s.endTraversal.store = s.store := rfl
@[simp] theorem State.endTraversal_snap (s : State) : s.endTraversal.snap = s.snap := rfl
@[simp] theorem State.endTraversal_bus (s : State) : s.endTraversal.bus = s.bus := rfl
@[simp] theorem State.endTraversal_readData (s : State) : s.endTraversal.readData = s.readData := rfl

/-! ### erodeMark -/

@[simp] theorem State.erodeMark_fault (t : Byte) (s : State) : (s.erodeMark t).fault = s.fault := rfl
@[simp] theorem State.erodeMark_errcode (t : Byte) (s : State) : (s.erodeMark t).errcode = s.errcode := rfl
@[simp] theorem State.erodeMark_constructed (t : Byte) (s : State) : (s.erodeMark t).constructed = s.constructed := rfl
@[simp] theorem State.erodeMark_space (t : Byte) (s : State) : (s.erodeMark t).space = s.space := rfl
@[simp] theorem State.erodeMark_word (t : Byte) (s : State) : (s.erodeMark t).word = s.word := rfl
@[simp] theorem State.erodeMark_chA (t : Byte) (s : State) : (s.erodeMark t).chA = s.chA := rfl
@[simp] theorem State.erodeMark_chB (t : Byte) (s : State) : (s.erodeMark t).chB = s.chB := rfl
@[simp] theorem State.erodeMark_chC (t : Byte) (s : State) : (s.erodeMark t).chC = s.chC := rfl
@[simp] theorem State.erodeMark_chM (t : Byte) (s : State) : (s.erodeMark t).chM = s.chM := rfl
@[simp] theorem State.erodeMark_x (t : Byte) (s : State) : (s.erodeMark t).x = s.x := rfl
@[simp] theorem State.erodeMark_y (t : Byte) (s : State) : (s.erodeMark t).y = s.y := rfl
@[simp] theorem State.erodeMark_width (t : Byte) (s : State) : (s.erodeMark t).width = s.width := rfl
@[simp] theorem State.erodeMark_height (t : Byte) (s : State) : (s.erodeMark t).height = s.height := rfl
@[simp] theorem State.erodeMark_curX (t : Byte) (s : State) : (s.erodeMark t).curX = s.curX := rfl
@[simp] theorem State.erodeMark_curY (t : Byte) (s : State) : (s.erodeMark t).curY = s.curY := rfl
@[simp] theorem State.erodeMark_count (t : Byte) (s : State) : (s.erodeMark t).count = s.count := rfl
@[simp] theorem State.erodeMark_capacity (t : Byte) (s : State) : (s.erodeMark t).capacity = s.capacity := rfl
@[simp] theorem State.erodeMark_trav (t : Byte) (s : State) : (s.erodeMark t).trav = s.trav := rfl
@[simp] theorem State.erodeMark_snap (t : Byte) (s : State) : (s.erodeMark t).snap = s.snap := rfl
@[simp] theorem State.erodeMark_bus (t : Byte) (s : State) : (s.erodeMark t).bus = s.bus := rfl
@[simp] theorem State.erodeMark_readData (t : Byte) (s : State) : (s.erodeMark t).readData = s.readData := rfl

/-! ### dilateMark -/

@[simp] theorem State.dilateMark_fault (t : Byte) (s : State) : (s.dilateMark t).fault = s.fault := rfl
@[simp] theorem State.dilateMark_errcode (t : Byte) (s : State) : (s.dilateMark t).errcode = s.errcode := rfl
@[simp] theorem State.dilateMark_constructed (t : Byte) (s : State) : (s.dilateMark t).constructed = s.constructed := rfl
@[simp] theorem State.dilateMark_space (t : Byte) (s : State) : (s.dilateMark t).space = s.space := rfl
@[simp] theorem State.dilateMark_word (t : Byte) (s : State) : (s.dilateMark t).word = s.word := rfl
@[simp] theorem State.dilateMark_chA (t : Byte) (s : State) : (s.dilateMark t).chA = s.chA := rfl
@[simp] theorem State.dilateMark_chB (t : Byte) (s : State) : (s.dilateMark t).chB = s.chB := rfl
@[simp] theorem State.dilateMark_chC (t : Byte) (s : State) : (s.dilateMark t).chC = s.chC := rfl
@[simp] theorem State.dilateMark_chM (t : Byte) (s : State) : (s.dilateMark t).chM = s.chM := rfl
@[simp] theorem State.dilateMark_x (t : Byte) (s : State) : (s.dilateMark t).x = s.x := rfl
@[simp] theorem State.dilateMark_y (t : Byte) (s : State) : (s.dilateMark t).y = s.y := rfl
@[simp] theorem State.dilateMark_width (t : Byte) (s : State) : (s.dilateMark t).width = s.width := rfl
@[simp] theorem State.dilateMark_height (t : Byte) (s : State) : (s.dilateMark t).height = s.height := rfl
@[simp] theorem State.dilateMark_curX (t : Byte) (s : State) : (s.dilateMark t).curX = s.curX := rfl
@[simp] theorem State.dilateMark_curY (t : Byte) (s : State) : (s.dilateMark t).curY = s.curY := rfl
@[simp] theorem State.dilateMark_count (t : Byte) (s : State) : (s.dilateMark t).count = s.count := rfl
@[simp] theorem State.dilateMark_capacity (t : Byte) (s : State) : (s.dilateMark t).capacity = s.capacity := rfl
@[simp] theorem State.dilateMark_trav (t : Byte) (s : State) : (s.dilateMark t).trav = s.trav := rfl
@[simp] theorem State.dilateMark_snap (t : Byte) (s : State) : (s.dilateMark t).snap = s.snap := rfl
@[simp] theorem State.dilateMark_bus (t : Byte) (s : State) : (s.dilateMark t).bus = s.bus := rfl
@[simp] theorem State.dilateMark_readData (t : Byte) (s : State) : (s.dilateMark t).readData = s.readData := rfl

/-! ### resolveSentinel -/

@[simp] theorem State.resolveSentinel_fault (v : Byte) (s : State) : (s.resolveSentinel v).fault = s.fault := rfl
@[simp] theorem State.resolveSentinel_errcode (v : Byte) (s : State) : (s.resolveSentinel v).errcode = s.errcode := rfl
@[simp] theorem State.resolveSentinel_constructed (v : Byte) (s : State) : (s.resolveSentinel v).constructed = s.constructed := rfl
@[simp] theorem State.resolveSentinel_space (v : Byte) (s : State) : (s.resolveSentinel v).space = s.space := rfl
@[simp] theorem State.resolveSentinel_word (v : Byte) (s : State) : (s.resolveSentinel v).word = s.word := rfl
@[simp] theorem State.resolveSentinel_chA (v : Byte) (s : State) : (s.resolveSentinel v).chA = s.chA := rfl
@[simp] theorem State.resolveSentinel_chB (v : Byte) (s : State) : (s.resolveSentinel v).chB = s.chB := rfl
@[simp] theorem State.resolveSentinel_chC (v : Byte) (s : State) : (s.resolveSentinel v).chC = s.chC := rfl
@[simp] theorem State.resolveSentinel_chM (v : Byte) (s : State) : (s.resolveSentinel v).chM = s.chM := rfl
@[simp] theorem State.resolveSentinel_x (v : Byte) (s : State) : (s.resolveSentinel v).x = s.x := rfl
@[simp] theorem State.resolveSentinel_y (v : Byte) (s : State) : (s.resolveSentinel v).y = s.y := rfl
@[simp] theorem State.resolveSentinel_width (v : Byte) (s : State) : (s.resolveSentinel v).width = s.width := rfl
@[simp] theorem State.resolveSentinel_height (v : Byte) (s : State) : (s.resolveSentinel v).height = s.height := rfl
@[simp] theorem State.resolveSentinel_curX (v : Byte) (s : State) : (s.resolveSentinel v).curX = s.curX := rfl
@[simp] theorem State.resolveSentinel_curY (v : Byte) (s : State) : (s.resolveSentinel v).curY = s.curY := rfl
@[simp] theorem State.resolveSentinel_count (v : Byte) (s : State) : (s.resolveSentinel v).count = s.count := rfl
@[simp] theorem State.resolveSentinel_capacity (v : Byte) (s : State) : (s.resolveSentinel v).capacity = s.capacity := rfl
@[simp] theorem State.resolveSentinel_trav (v : Byte) (s : State) : (s.resolveSentinel v).trav = s.trav := rfl
@[simp] theorem State.resolveSentinel_snap (v : Byte) (s : State) : (s.resolveSentinel v).snap = s.snap := rfl
@[simp] theorem State.resolveSentinel_bus (v : Byte) (s : State) : (s.resolveSentinel v).bus = s.bus := rfl
@[simp] theorem State.resolveSentinel_readData (v : Byte) (s : State) : (s.resolveSentinel v).readData = s.readData := rfl

/-! ### pendCommand -/

@[simp] theorem State.pendCommand_fault (w : Word) (s : State) : (s.pendCommand w).fault = s.fault := rfl
@[simp] theorem State.pendCommand_errcode (w : Word) (s : State) : (s.pendCommand w).errcode = s.errcode := rfl
@[simp] theorem State.pendCommand_constructed (w : Word) (s : State) : (s.pendCommand w).constructed = s.constructed := rfl
@[simp] theorem State.pendCommand_space (w : Word) (s : State) : (s.pendCommand w).space = s.space := rfl
@[simp] theorem State.pendCommand_word (w : Word) (s : State) : (s.pendCommand w).word = s.word := rfl
@[simp] theorem State.pendCommand_chA (w : Word) (s : State) : (s.pendCommand w).chA = s.chA := rfl
@[simp] theorem State.pendCommand_chB (w : Word) (s : State) : (s.pendCommand w).chB = s.chB := rfl
@[simp] theorem State.pendCommand_chC (w : Word) (s : State) : (s.pendCommand w).chC = s.chC := rfl
@[simp] theorem State.pendCommand_chM (w : Word) (s : State) : (s.pendCommand w).chM = s.chM := rfl
@[simp] theorem State.pendCommand_x (w : Word) (s : State) : (s.pendCommand w).x = s.x := rfl
@[simp] theorem State.pendCommand_y (w : Word) (s : State) : (s.pendCommand w).y = s.y := rfl
@[simp] theorem State.pendCommand_width (w : Word) (s : State) : (s.pendCommand w).width = s.width := rfl
@[simp] theorem State.pendCommand_height (w : Word) (s : State) : (s.pendCommand w).height = s.height := rfl
@[simp] theorem State.pendCommand_curX (w : Word) (s : State) : (s.pendCommand w).curX = s.curX := rfl
@[simp] theorem State.pendCommand_curY (w : Word) (s : State) : (s.pendCommand w).curY = s.curY := rfl
@[simp] theorem State.pendCommand_count (w : Word) (s : State) : (s.pendCommand w).count = s.count := rfl
@[simp] theorem State.pendCommand_capacity (w : Word) (s : State) : (s.pendCommand w).capacity = s.capacity := rfl
@[simp] theorem State.pendCommand_trav (w : Word) (s : State) : (s.pendCommand w).trav = s.trav := rfl
@[simp] theorem State.pendCommand_store (w : Word) (s : State) : (s.pendCommand w).store = s.store := rfl
@[simp] theorem State.pendCommand_snap (w : Word) (s : State) : (s.pendCommand w).snap = s.snap := rfl
@[simp] theorem State.pendCommand_bus (w : Word) (s : State) : (s.pendCommand w).bus = HostEvent.write (Reg.offset .cmd) w :: s.bus := rfl
@[simp] theorem State.pendCommand_readData (w : Word) (s : State) : (s.pendCommand w).readData = s.readData := rfl

/-! ### resetDevice: the state of reset but for the constant CAPACITY and the host's own side -/

@[simp] theorem State.resetDevice_fault (s : State) : s.resetDevice.fault = State.reset.fault := rfl
@[simp] theorem State.resetDevice_errcode (s : State) : s.resetDevice.errcode = State.reset.errcode := rfl
@[simp] theorem State.resetDevice_constructed (s : State) : s.resetDevice.constructed = State.reset.constructed := rfl
@[simp] theorem State.resetDevice_space (s : State) : s.resetDevice.space = State.reset.space := rfl
@[simp] theorem State.resetDevice_word (s : State) : s.resetDevice.word = State.reset.word := rfl
@[simp] theorem State.resetDevice_chA (s : State) : s.resetDevice.chA = State.reset.chA := rfl
@[simp] theorem State.resetDevice_chB (s : State) : s.resetDevice.chB = State.reset.chB := rfl
@[simp] theorem State.resetDevice_chC (s : State) : s.resetDevice.chC = State.reset.chC := rfl
@[simp] theorem State.resetDevice_chM (s : State) : s.resetDevice.chM = State.reset.chM := rfl
@[simp] theorem State.resetDevice_x (s : State) : s.resetDevice.x = State.reset.x := rfl
@[simp] theorem State.resetDevice_y (s : State) : s.resetDevice.y = State.reset.y := rfl
@[simp] theorem State.resetDevice_width (s : State) : s.resetDevice.width = State.reset.width := rfl
@[simp] theorem State.resetDevice_height (s : State) : s.resetDevice.height = State.reset.height := rfl
@[simp] theorem State.resetDevice_curX (s : State) : s.resetDevice.curX = State.reset.curX := rfl
@[simp] theorem State.resetDevice_curY (s : State) : s.resetDevice.curY = State.reset.curY := rfl
@[simp] theorem State.resetDevice_count (s : State) : s.resetDevice.count = State.reset.count := rfl
@[simp] theorem State.resetDevice_capacity (s : State) : s.resetDevice.capacity = s.capacity := rfl
@[simp] theorem State.resetDevice_trav (s : State) : s.resetDevice.trav = State.reset.trav := rfl
@[simp] theorem State.resetDevice_store (s : State) : s.resetDevice.store = State.reset.store := rfl
@[simp] theorem State.resetDevice_snap (s : State) : s.resetDevice.snap = State.reset.snap := rfl
@[simp] theorem State.resetDevice_bus (s : State) : s.resetDevice.bus = s.bus := rfl
@[simp] theorem State.resetDevice_readData (s : State) : s.resetDevice.readData = s.readData := rfl

/-! ### setReg: what no host write changes -/

@[simp] theorem State.setReg_fault (r : Reg) (v : Word) (s : State) : (s.setReg r v).fault = s.fault := by cases r <;> rfl
@[simp] theorem State.setReg_errcode (r : Reg) (v : Word) (s : State) : (s.setReg r v).errcode = s.errcode := by cases r <;> rfl
@[simp] theorem State.setReg_constructed (r : Reg) (v : Word) (s : State) : (s.setReg r v).constructed = s.constructed := by cases r <;> rfl
@[simp] theorem State.setReg_space (r : Reg) (v : Word) (s : State) : (s.setReg r v).space = s.space := by cases r <;> rfl
@[simp] theorem State.setReg_curX (r : Reg) (v : Word) (s : State) : (s.setReg r v).curX = s.curX := by cases r <;> rfl
@[simp] theorem State.setReg_curY (r : Reg) (v : Word) (s : State) : (s.setReg r v).curY = s.curY := by cases r <;> rfl
@[simp] theorem State.setReg_count (r : Reg) (v : Word) (s : State) : (s.setReg r v).count = s.count := by cases r <;> rfl
@[simp] theorem State.setReg_capacity (r : Reg) (v : Word) (s : State) : (s.setReg r v).capacity = s.capacity := by cases r <;> rfl
@[simp] theorem State.setReg_trav (r : Reg) (v : Word) (s : State) : (s.setReg r v).trav = s.trav := by cases r <;> rfl
@[simp] theorem State.setReg_store (r : Reg) (v : Word) (s : State) : (s.setReg r v).store = s.store := by cases r <;> rfl
@[simp] theorem State.setReg_snap (r : Reg) (v : Word) (s : State) : (s.setReg r v).snap = s.snap := by cases r <;> rfl
@[simp] theorem State.setReg_bus (r : Reg) (v : Word) (s : State) : (s.setReg r v).bus = s.bus := by cases r <;> rfl
@[simp] theorem State.setReg_readData (r : Reg) (v : Word) (s : State) : (s.setReg r v).readData = s.readData := by cases r <;> rfl

/-! ### The cells of an image depend on WIDTH, HEIGHT and the store only -/

theorem State.cellIndex_congr {s t : State} (hw : s.width = t.width) (p : Coord) : s.cellIndex p = t.cellIndex p := by
  simp [State.cellIndex, hw]

theorem State.visited_congr {s t : State} (hw : s.width = t.width) (hh : s.height = t.height) (b : Nat) :
    s.visited b = t.visited b := by
  simp [State.visited, hw, hh]

theorem State.inImage_congr {s t : State} (hw : s.width = t.width) (hh : s.height = t.height) (p : Coord) :
    s.inImage p = t.inImage p := by
  simp [State.inImage, hw, hh]

theorem State.pix_congr {s t : State} (hw : s.width = t.width) (hs : s.store = t.store) (p : Coord) :
    s.pix p = t.pix p := by
  simp [State.pix, State.cellIndex, hw, hs]

end Sys2Proof.Machine
end

