-- ==== Sys2Proof/Laws/Ops.lean ====
section
/-! SUPPORT. What each shared operation can do, said once: the fault latch, the ordered checks, register writes, the start
of a traversal, HOST_DONE, and one step. Proofs cite these instead of unfolding. -/

namespace Sys2Proof.Machine

/-! ### The fault latch -/

/-- Raising while FAULT = 1 changes nothing (60_exceptions.md R225). -/
theorem State.raise_of_fault {s : State} (h : s.fault = true) (e : ErrCode) : s.raise e = s := by
  cases s
  simp only at h
  subst h
  rfl

/-- The first violation writes FAULT and ERRCODE and nothing else. -/
theorem State.raise_of_not_fault {s : State} (h : s.fault = false) (e : ErrCode) :
    s.raise e = { s with fault := true, errcode := e } := by
  simp [State.raise, h]

/-! ### The ordered checks -/

@[simp] theorem guarded_nil (s k : State) : guarded [] s k = k := rfl

@[simp] theorem guarded_cons (bad : Bool) (e : ErrCode) (rest : List (Bool × ErrCode)) (s k : State) :
    guarded ((bad, e) :: rest) s k = if bad then s.raise e else guarded rest s k := rfl

/-- When no check fails, the result is the effect. -/
theorem guarded_of_all {cs : List (Bool × ErrCode)} (h : ∀ c ∈ cs, c.1 = false) (s k : State) : guarded cs s k = k := by
  induction cs with
  | nil => rfl
  | cons c cs ih =>
    obtain ⟨bad, e⟩ := c
    have hb : bad = false := h (bad, e) (by simp)
    rw [guarded_cons, hb]
    exact ih fun c hc => h c (by simp [hc])

/-- All a checked effect can do: the effect with every check passed, or the code of the first failing check, raised. -/
theorem guarded_cases (cs : List (Bool × ErrCode)) (s k : State) :
    ((∀ c ∈ cs, c.1 = false) ∧ guarded cs s k = k) ∨
      ∃ pre e post, cs = pre ++ (true, e) :: post ∧ (∀ c ∈ pre, c.1 = false) ∧ guarded cs s k = s.raise e := by
  induction cs with
  | nil => exact .inl ⟨by simp, rfl⟩
  | cons c cs ih =>
    obtain ⟨bad, e⟩ := c
    cases bad with
    | true => exact .inr ⟨[], e, cs, rfl, by simp, rfl⟩
    | false =>
      rcases ih with ⟨hall, hk⟩ | ⟨pre, e', post, hcs, hpre, hk⟩
      · refine .inl ⟨fun c hc => ?_, hk⟩
        rcases List.mem_cons.mp hc with rfl | hc
        · rfl
        · exact hall c hc
      · refine .inr ⟨(false, e) :: pre, e', post, by rw [hcs]; rfl, fun c hc => ?_, hk⟩
        rcases List.mem_cons.mp hc with rfl | hc
        · rfl
        · exact hpre c hc

/-! ### Host accesses -/

/-- One step is the delivery of the host's next access. -/
theorem step_of_bus {s : State} {e : HostEvent} {rest : List HostEvent} (h : s.bus = e :: rest) :
    step s = deliver e { s with bus := rest } := by
  unfold step stepBus
  rw [h]

theorem step_of_idle {s : State} (h : s.bus = []) : step s = .next s := by
  unfold step stepBus
  rw [h]

/-- All a host write can do (40_host_interface.md R102, R103). -/
theorem hostWrite_cases (off : BitVec 8) (v : Word) (s : State) :
    (s.fault = true ∧ hostWrite off v s = .next s) ∨
    (s.fault = false ∧ off = Reg.offset .cmd ∧ hostWrite off v s = issue v s) ∨
    (s.fault = false ∧ off ≠ Reg.offset .cmd ∧ hostWrite off v s = .next (s.writeRegister off v)) := by
  unfold hostWrite
  cases hf : s.fault with
  | true => exact .inl ⟨rfl, rfl⟩
  | false =>
    by_cases ho : off = Reg.offset .cmd
    · exact .inr (.inl ⟨rfl, ho, by simp [ho]⟩)
    · exact .inr (.inr ⟨rfl, ho, by simp [ho]⟩)

/-- A command word that decodes runs as its command. -/
theorem issue_of_decode {w : Word} {i : Instr} (h : decode w = .ok i) (s : State) : issue w s = exec i s := by
  unfold issue
  rw [h]

/-- A command word that does not decode raises ILLEGAL_COMMAND. -/
theorem issue_of_illegal {w : Word} {e : DecodeError} (h : decode w = .error e) (s : State) :
    issue w s = .next (s.raise .illegalCommand) := by
  unfold issue
  rw [h]

/-! ### Traversals -/

/-- Starting a HOST-kernel traversal that visits no cell does nothing (44_traversal.md R177). -/
theorem State.traverseHost_of_nil {s : State} {b : Nat} (h : s.visited b = []) (md : TravMode) :
    s.traverseHost md b = s := by
  unfold State.traverseHost
  rw [h]

/-- Starting one that visits a cell suspends at the first cell (44_traversal.md R177). -/
theorem State.traverseHost_of_cons {s : State} {b : Nat} {p : Coord} {ps : List Coord} (h : s.visited b = p :: ps)
    (md : TravMode) :
    s.traverseHost md b = State.present p { s with trav := ⟨true, md, p :: ps, 0⟩ } := by
  unfold State.traverseHost
  rw [h]

/-- All HOST_DONE can do (44_traversal.md R179). -/
theorem execHostDone_cases (s : State) :
    (s.trav.active = false ∧ execHostDone s = .next (s.raise .callbackViolation)) ∨
    (s.trav.active = true ∧ execHostDone s = .fault .undefinedCell) ∨
    (∃ p, s.trav.active = true ∧ s.trav.cells[s.trav.index]? = some p ∧ s.cellDefined p = true ∧
      s.trav.cells[s.trav.index + 1]? = none ∧
      execHostDone s = .next (s.setPix p (pack s.channels)).endTraversal) ∨
    (∃ p q, s.trav.active = true ∧ s.trav.cells[s.trav.index]? = some p ∧ s.cellDefined p = true ∧
      s.trav.cells[s.trav.index + 1]? = some q ∧ s.cellDefined q = true ∧
      execHostDone s = .next (State.present q
        { s.setPix p (pack s.channels) with trav := { s.trav with index := s.trav.index + 1 } })) := by
  unfold execHostDone
  cases ha : s.trav.active with
  | false => exact .inl ⟨rfl, rfl⟩
  | true =>
    cases hp : s.trav.cells[s.trav.index]? with
    | none => exact .inr (.inl ⟨rfl, rfl⟩)
    | some p =>
      cases hd : s.cellDefined p with
      | false => exact .inr (.inl ⟨rfl, by simp [hd]⟩)
      | true =>
        cases hq : s.trav.cells[s.trav.index + 1]? with
        | none => exact .inr (.inr (.inl ⟨p, rfl, rfl, hd, rfl, by simp [hd]⟩))
        | some q =>
          cases he : s.cellDefined q with
          | false => exact .inr (.inl ⟨rfl, by simp [hd, he]⟩)
          | true => exact .inr (.inr (.inr ⟨p, q, rfl, rfl, hd, rfl, he, by simp [hd, he]⟩))

/-- Every command but HOST_DONE answers a next state. -/
theorem exec_next_of_ne_hostDone (i : Instr) (h : i ≠ .hostDone) (s : State) : ∃ t, exec i s = .next t := by
  cases i <;> first | exact absurd rfl h | exact ⟨_, rfl⟩

/-! ### PixelWords -/

theorem byte_of_masked (w : Word) (n : Nat) :
    (((w >>> n) &&& 0xFF#32).setWidth 8).toNat = w.toNat / 2 ^ n % 256 := by
  simp only [BitVec.toNat_setWidth, BitVec.toNat_and, BitVec.toNat_ushiftRight, BitVec.toNat_ofNat,
    Nat.shiftRight_eq_div_pow]
  have : (255 % 2 ^ 32 : Nat) = 2 ^ 8 - 1 := by norm_num
  rw [this, Nat.and_two_pow_sub_one_eq_mod]
  omega

/-- The four lanes of a word, as numbers (41_codec.md R115). -/
theorem unpack_toNat (w : Word) :
    (unpack w).a.toNat = w.toNat / 2 ^ 24 ∧ (unpack w).b.toNat = w.toNat / 2 ^ 16 % 256 ∧
      (unpack w).c.toNat = w.toNat / 2 ^ 8 % 256 ∧ (unpack w).m.toNat = w.toNat % 256 := by
  refine ⟨?_, byte_of_masked w 16, byte_of_masked w 8, ?_⟩
  · have := byte_of_masked w 24
    have hw := w.isLt
    simp only [unpack]
    omega
  · simpa [unpack] using byte_of_masked w 0

/-- A packed pixel as a number (41_codec.md R116, 20_memory.md R52). -/
theorem pack_toNat (p : Pixel) :
    (pack p).toNat = p.a.toNat * 2 ^ 24 + p.b.toNat * 2 ^ 16 + p.c.toNat * 2 ^ 8 + p.m.toNat := by
  have ha := p.a.isLt; have hb := p.b.isLt; have hc := p.c.isLt; have hm := p.m.isLt
  have h1 : (p.a.setWidth 32 <<< 24).toNat = p.a.toNat <<< 24 := by
    simp only [BitVec.toNat_shiftLeft, BitVec.toNat_setWidth, Nat.shiftLeft_eq]; omega
  have h2 : (p.b.setWidth 32 <<< 16).toNat = p.b.toNat <<< 16 := by
    simp only [BitVec.toNat_shiftLeft, BitVec.toNat_setWidth, Nat.shiftLeft_eq]; omega
  have h3 : (p.c.setWidth 32 <<< 8).toNat = p.c.toNat <<< 8 := by
    simp only [BitVec.toNat_shiftLeft, BitVec.toNat_setWidth, Nat.shiftLeft_eq]; omega
  have h4 : (p.m.setWidth 32).toNat = p.m.toNat := by simp only [BitVec.toNat_setWidth]; omega
  have e1 : p.a.toNat <<< 24 = (p.a.toNat <<< 8) <<< 16 := by simp only [Nat.shiftLeft_eq]; ring
  have e2 : p.a.toNat <<< 8 ||| p.b.toNat = p.a.toNat * 2 ^ 8 + p.b.toNat := by
    rw [← Nat.shiftLeft_add_eq_or_of_lt (by omega), Nat.shiftLeft_eq]
  simp only [pack, BitVec.toNat_or, h1, h2, h3, h4]
  rw [e1, ← Nat.shiftLeft_or_distrib, e2,
    show (p.a.toNat * 2 ^ 8 + p.b.toNat) <<< 16 = ((p.a.toNat * 2 ^ 8 + p.b.toNat) <<< 8) <<< 8 by
      simp only [Nat.shiftLeft_eq]; ring,
    ← Nat.shiftLeft_or_distrib, ← Nat.shiftLeft_add_eq_or_of_lt (by omega), ← Nat.shiftLeft_add_eq_or_of_lt (by omega)]
  simp only [Nat.shiftLeft_eq]
  ring

/-- Four lanes side by side, as a number. -/
theorem append_toNat (a b c d : Byte) :
    (a ++ b ++ c ++ d : BitVec 32).toNat = a.toNat * 2 ^ 24 + b.toNat * 2 ^ 16 + c.toNat * 2 ^ 8 + d.toNat := by
  have ha := a.isLt; have hb := b.isLt; have hc := c.isLt; have hd := d.isLt
  simp only [BitVec.toNat_append]
  rw [← Nat.shiftLeft_add_eq_or_of_lt (by omega), ← Nat.shiftLeft_add_eq_or_of_lt (by omega),
    ← Nat.shiftLeft_add_eq_or_of_lt (by omega)]
  simp only [Nat.shiftLeft_eq]
  omega

/-- Packing is putting the lanes side by side, A most significant (41_codec.md R116). -/
theorem pack_eq_append (a b c d : Byte) : pack ⟨a, b, c, d⟩ = a ++ b ++ c ++ d :=
  BitVec.eq_of_toNat_eq (by rw [append_toNat, pack_toNat])

/-- Unpacking takes the lanes apart again. -/
theorem unpack_append (a b c d : Byte) : unpack (a ++ b ++ c ++ d) = ⟨a, b, c, d⟩ := by
  have h := unpack_toNat (a ++ b ++ c ++ d)
  have ha := a.isLt; have hb := b.isLt; have hc := c.isLt; have hd := d.isLt
  rw [append_toNat] at h
  cases hq : unpack (a ++ b ++ c ++ d)
  rw [hq] at h
  simp only [Pixel.mk.injEq] at *
  refine ⟨BitVec.eq_of_toNat_eq ?_, BitVec.eq_of_toNat_eq ?_, BitVec.eq_of_toNat_eq ?_, BitVec.eq_of_toNat_eq ?_⟩ <;>
    omega

/-- A field of a word, as a number. -/
theorem extract_toNat (w : Word) (lo n : Nat) : (w.extractLsb' lo n).toNat = w.toNat / 2 ^ lo % 2 ^ n := by
  rw [BitVec.extractLsb'_toNat, Nat.shiftRight_eq_div_pow]

/-- The Mask is bits 7:0 (20_memory.md R52). -/
theorem maskOf_eq_extract (w : Word) : maskOf w = w.extractLsb' 0 8 := by
  apply BitVec.eq_of_toNat_eq
  rw [extract_toNat, maskOf, (unpack_toNat w).2.2.2]
  omega

/-- A Mask write leaves the new Mask (45_morphology.md R207). -/
theorem maskOf_withMask (w : Word) (v : Byte) : maskOf (withMask w v) = v := by
  apply BitVec.eq_of_toNat_eq
  have hv := v.isLt
  rw [maskOf, (unpack_toNat _).2.2.2, withMask, pack_toNat]
  simp only
  omega

/-- A Mask write keeps bits 31:8 (45_morphology.md R207). -/
theorem colour_withMask (w : Word) (v : Byte) : (withMask w v).extractLsb' 8 24 = w.extractLsb' 8 24 := by
  apply BitVec.eq_of_toNat_eq
  obtain ⟨h1, h2, h3, -⟩ := unpack_toNat w
  have hv := v.isLt; have hw := w.isLt
  rw [extract_toNat, extract_toNat, withMask, pack_toNat]
  simp only
  rw [h1, h2, h3]
  omega

/-! ### Traversal commands -/

/-- The three traversal commands are one operation on their mode, KERNEL and border (44_traversal.md R175, R181, R182). -/
theorem exec_of_traversalOf {i : Instr} {md : TravMode} {k : Byte} {b : Nat} (h : traversalOf i = some (md, k, b))
    (s : State) : exec i s = .next (s.traversalCommand md k b) := by
  cases i <;> simp [traversalOf] at h <;> obtain ⟨rfl, rfl, rfl⟩ := h <;> rfl

end Sys2Proof.Machine
end

