-- ==== Sys2Proof/Laws/PerInstr.lean ====
section
/-! SUPPORT. Statements about every command as syntax, one lemma per constructor. `EncodesItsRow` says that the word of a
well-formed command fits the opcode-table row of its own mnemonic. -/

namespace Sys2Proof.Laws.EncodesItsRow

open Sys2Proof Sys2Proof.Machine

/-- A well-formed command's word fits the row of spec/opcode_table.json that bears its mnemonic. -/
def Statement (i : Instr) : Prop :=
  i.wellFormed = true → ∃ r ∈ opcodeTable, r.mnemonic = i.mnemonic ∧ r.fits (encode i) = true

theorem nop : Statement .nop := fun _ => by decide

theorem unpack : Statement .unpack := fun _ => by decide

theorem pack : Statement .pack := fun _ => by decide

theorem rgb2hsv : Statement .rgb2hsv := fun _ => by decide

theorem hsv2rgb : Statement .hsv2rgb := fun _ => by decide

theorem construct (sp : Space) : Statement (.construct sp) := fun _ => by cases sp <;> decide

theorem get : Statement .get := fun _ => by decide

theorem set : Statement .set := fun _ => by decide

theorem access : Statement .access := fun _ => by decide

theorem convert (sp : Space) : Statement (.convert sp) := fun _ => by cases sp <;> decide

theorem hostDone : Statement .hostDone := fun _ => by decide

/-- Masking a word to fields of it, bit by bit. -/
theorem and_eq_of_testBit {v m p : Word} (h : ∀ j < 32, (v.getLsbD j && m.getLsbD j) = p.getLsbD j) : v &&& m = p := by
  apply BitVec.eq_of_getLsbD_eq
  intro j hj
  rw [BitVec.getLsbD_and]
  exact h j hj

theorem kernelField_of_append (o k : Byte) (b : Half) : kernelField (o ++ k ++ b : BitVec 32) = k := by
  apply BitVec.eq_of_getLsbD_eq
  intro j hj
  simp only [kernelField, BitVec.getLsbD_extractLsb', BitVec.getLsbD_append]
  simp [hj, show ¬ 16 + j < 16 by omega, show 16 + j - 16 = j by omega]

/-- The row of format K or KB that a word of that format fits. -/
theorem fits_kernel_row {r : OpcodeRow} {o k : Byte} {b : Half} (hk : kernelDefined k = true)
    (hr : (o ++ k ++ b : BitVec 32) &&& r.mask = r.pattern) : r.fits (o ++ k ++ b : BitVec 32) = true := by
  simp [OpcodeRow.fits, hr, kernelField_of_append, hk]

theorem foreach (kernel : Byte) : Statement (.foreach kernel) := fun h =>
  ⟨⟨"FOREACH", 0x20000000#32, 0xFF00FFFF#32, true⟩, by decide, rfl, fits_kernel_row h (and_eq_of_testBit fun j hj => by
    simp only [BitVec.getLsbD_append]
    interval_cases j <;> simp)⟩

theorem foreachIdx (kernel : Byte) (border : Half) : Statement (.foreachIdx kernel border) := fun h =>
  ⟨⟨"FOREACH_IDX", 0x21000000#32, 0xFF000000#32, true⟩, by decide, rfl,
    fits_kernel_row h (and_eq_of_testBit fun j hj => by
      simp only [BitVec.getLsbD_append]
      interval_cases j <;> simp)⟩

theorem foreachBor (kernel : Byte) (border : Half) : Statement (.foreachBor kernel border) := fun h =>
  ⟨⟨"FOREACH_BOR", 0x22000000#32, 0xFF000000#32, true⟩, by decide, rfl,
    fits_kernel_row h (and_eq_of_testBit fun j hj => by
      simp only [BitVec.getLsbD_append]
      interval_cases j <;> simp)⟩

/-- The row of a format without KERNEL that a word fits. -/
theorem fits_plain_row {r : OpcodeRow} {w : Word} (hn : r.hasKernel = false) (hr : w &&& r.mask = r.pattern) :
    r.fits w = true := by
  simp [OpcodeRow.fits, hr, hn]

theorem checkadj (tgt sec : Byte) : Statement (.checkadj tgt sec) := fun _ =>
  ⟨⟨"CHECKADJ", 0x30000000#32, 0xFFFF0000#32, false⟩, by decide, rfl,
    fits_plain_row rfl (and_eq_of_testBit fun j hj => by
      simp only [encode, BitVec.getLsbD_append]
      interval_cases j <;> simp)⟩

theorem erode (tgt dflt : Byte) : Statement (.erode tgt dflt) := fun _ =>
  ⟨⟨"ERODE", 0x31000000#32, 0xFFFF0000#32, false⟩, by decide, rfl,
    fits_plain_row rfl (and_eq_of_testBit fun j hj => by
      simp only [encode, BitVec.getLsbD_append]
      interval_cases j <;> simp)⟩

theorem dilate (tgt : Byte) : Statement (.dilate tgt) := fun _ =>
  ⟨⟨"DILATE", 0x32000000#32, 0xFFFF00FF#32, false⟩, by decide, rfl,
    fits_plain_row rfl (and_eq_of_testBit fun j hj => by
      simp only [encode, BitVec.getLsbD_append]
      interval_cases j <;> simp)⟩

end Sys2Proof.Laws.EncodesItsRow
end

