-- ==== Sys2Proof/Tests/Slice0.lean ====
section
/-! SUPPORT. The model's own tests: ill-formed terms, words written out from the spec's encodings, one-step tests with the
values of spec/95_test_vectors.md (each test names its vector), and for every statement with hypotheses a concrete state and
operands that meet them. -/

namespace Sys2Proof.Tests

open Sys2Proof Sys2Proof.Machine

/-! ### Small states -/

/-- A reset device of 64 words, as 95_test_vectors.md takes it. -/
def dev : State := { State.reset with capacity := 64 }

/-- A store that holds the words given, by index. -/
def words (l : List (Nat × Word)) : Memory := l.foldl (fun m c => m.writeWord c.1 c.2) []

/-- A device with an image that holds the words given. -/
def img (w h : Half) (sp : Space) (l : List (Nat × Word)) : State :=
  { dev with constructed := true, space := sp, width := w, height := h, store := words l }

/-- A 3×3 RGB image of zeros. -/
def img3 : State := img 3 3 .rgb []

/-- The same suspended at cell `n` of a traversal with border 0. -/
def suspended (md : TravMode) (n : Nat) : State :=
  { img3 with trav := ⟨true, md, rowMajor 3 3 0, n⟩, curX := BitVec.ofNat 16 (n % 3), curY := BitVec.ofNat 16 (n / 3) }

/-- The next state of an outcome. -/
def next? (o : Host.Outcome State Fault Refusal) : Option State :=
  match o with
  | .next s => some s
  | .fault _ => none
  | .refused _ => none

/-- The STATUS a command leaves. -/
def status? (o : Host.Outcome State Fault Refusal) : Option Word := (next? o).map State.statusWord

/-- The words of an image, row by row. -/
def cellsOf (s : State) : List Word := (s.visited 0).map s.pix

/-- The channel registers. -/
def chans (s : State) : Byte × Byte × Byte × Byte := (s.chA, s.chB, s.chC, s.chM)

/-! ### Ill-formed terms: the one check, at its boundary, for each of the three commands that have a KERNEL -/

theorem test_illformed_foreach : (Instr.foreach 0x03#8).wellFormed = false := by decide
theorem test_illformed_foreachIdx : (Instr.foreachIdx 0x03#8 0#16).wellFormed = false := by decide
theorem test_illformed_foreachBor : (Instr.foreachBor 0xFF#8 0#16).wellFormed = false := by decide
theorem test_wellformed_kernel : (Instr.foreach 0x02#8).wellFormed = true := by decide

/-! ### Words written out from 30_encoding.md R76, R78 and R85, one for every constructor, and what is refused -/

theorem test_decode_nop : decode 0x00000000#32 = .ok .nop := by decide
theorem test_decode_unpack : decode 0x01000000#32 = .ok .unpack := by decide
theorem test_decode_pack : decode 0x02000000#32 = .ok .pack := by decide
theorem test_decode_rgb2hsv : decode 0x03000000#32 = .ok .rgb2hsv := by decide
theorem test_decode_hsv2rgb : decode 0x04000000#32 = .ok .hsv2rgb := by decide
theorem test_decode_construct : decode 0x10000001#32 = .ok (.construct .hsv) := by decide
theorem test_decode_get : decode 0x11000000#32 = .ok .get := by decide
theorem test_decode_set : decode 0x12000000#32 = .ok .set := by decide
theorem test_decode_access : decode 0x13000000#32 = .ok .access := by decide
theorem test_decode_foreach : decode 0x20020000#32 = .ok (.foreach 0x02#8) := by decide
theorem test_decode_foreachIdx : decode 0x2101ABCD#32 = .ok (.foreachIdx 0x01#8 0xABCD#16) := by decide
theorem test_decode_foreachBor : decode 0x22000102#32 = .ok (.foreachBor 0x00#8 0x0102#16) := by decide
theorem test_decode_convert : decode 0x23000000#32 = .ok (.convert .rgb) := by decide
theorem test_decode_hostDone : decode 0x2F000000#32 = .ok .hostDone := by decide
theorem test_decode_checkadj : decode 0x300012AB#32 = .ok (.checkadj 0x12#8 0xAB#8) := by decide
theorem test_decode_erode : decode 0x31000102#32 = .ok (.erode 0x01#8 0x02#8) := by decide
theorem test_decode_dilate : decode 0x32000900#32 = .ok (.dilate 0x09#8) := by decide

/-- One bit set in NOP's reserved field (V-HI-20), in CONSTRUCT's (V-IM-6), DILATE's (V-MO-16) and CHECKADJ's (V-MO-27). -/
theorem test_decode_reserved :
    decode 0x00000001#32 = .error .reservedBits ∧ decode 0x10000002#32 = .error .reservedBits ∧
    decode 0x32000101#32 = .error .reservedBits ∧ decode 0x30010101#32 = .error .reservedBits := by decide

/-- An opcode outside R78 (V-FP-9) and a KERNEL of 3 (V-TR-23). -/
theorem test_decode_undefined :
    decode 0x05000000#32 = .error .undefinedOpcode ∧ decode 0x20030000#32 = .error .undefinedKernel := by decide

theorem test_decodeTableWord : decodeTableWord 32 0x22010005 = some (.foreachBor 0x01#8 0x0005#16) := by decide

/-! ### One step each, with the values of 95_test_vectors.md -/

/-- V-HI-8: a channel value above 255 leaves the register and gives STATUS 0x401. -/
theorem test_write_channel_range :
    (next? (step { dev with bus := [.write 0x0C#8 0x100#32] })).map (fun s => (s.chA, s.statusWord)) =
      some (0x00#8, 0x00000401#32) := by decide

/-- V-HI-22: the first violation's code is kept. -/
theorem test_write_after_fault :
    status? (step { dev.raise .channelRange with bus := [.write 0x1C#8 0x10000#32] }) = some 0x00000401#32 := by decide

/-- V-HI-1 and V-HI-5: CAPACITY reads 64, a misaligned offset 0. -/
theorem test_read : dev.hostRead 0x38#8 = 0x40#32 ∧ { dev with word := 7 }.hostRead 0x09#8 = 0#32 := by decide

/-- V-FP-5: DIM_LOCKED before REG_RANGE. -/
theorem test_dim_locked_first :
    status? (step { img3 with bus := [.write 0x24#8 0x10000#32] }) = some 0x00000703#32 := by decide

/-- V-CO-1. -/
theorem test_unpack :
    (next? (exec .unpack { dev with word := 0x12345678 })).map chans = some (0x12#8, 0x34#8, 0x56#8, 0x78#8) := by decide

/-- V-CO-11. -/
theorem test_pack :
    (next? (exec .pack { dev with chA := 171, chC := 205 })).map State.word = some 0xAB00CD00#32 := by decide

/-- V-CC-9: the A branch wraps a negative difference; the Mask is untouched. -/
theorem test_rgb2hsv_wraps :
    (next? (exec .rgb2hsv { dev with chA := 255, chC := 255, chM := 0x77 })).map chans =
      some (212#8, 255#8, 255#8, 0x77#8) := by decide

/-- V-CC-17: the C branch is not taken, the division truncates. -/
theorem test_rgb2hsv_b_branch :
    (next? (exec .rgb2hsv { dev with chB := 214, chC := 146 })).map chans = some (113#8, 255#8, 214#8, 0#8) := by decide

/-- V-CC-35: the worst round trip comes back with 140 for 146. -/
theorem test_hsv2rgb_drift :
    (next? (exec .hsv2rgb { dev with chA := 113, chB := 255, chC := 214 })).map chans = some (0#8, 214#8, 140#8, 0#8) := by
  decide

/-- V-CC-37: chroma 1, m 254. -/
theorem test_hsv2rgb_bucket :
    (next? (exec .hsv2rgb { dev with chA := 200, chB := 1, chC := 255 })).map chans = some (254#8, 254#8, 255#8, 0#8) := by
  decide

/-- V-IM-2 and V-IM-3: CONSTRUCT HSV of 3×3 in 64 words, and in 8. -/
theorem test_construct :
    status? (exec (.construct .hsv) { dev with width := 3, height := 3 }) = some 0x00000006#32 ∧
    status? (exec (.construct .rgb) { dev with width := 3, height := 3, capacity := 8 }) = some 0x00000801#32 := by decide

/-- V-IM-10: cell (2, 1) of a 3×3 image is word 5. -/
theorem test_get :
    (next? (exec .get { img 3 3 .rgb [(5, 0x11223344)] with x := 2, y := 1 })).map State.word = some 0x11223344#32 := by
  decide

/-- V-IM-11 and V-IM-9. -/
theorem test_get_faults :
    status? (exec .get { img3 with x := 3 }) = some 0x00000903#32 ∧ status? (exec .get dev) = some 0x00000501#32 := by
  decide

/-- V-IM-16: SET then the store's word. -/
theorem test_set :
    (next? (exec .set { img3 with x := 2, y := 1, word := 0xFFFFFFFF })).map (fun s => s.store.readWord 5) =
      some 0xFFFFFFFF#32 := by decide

/-- V-TR-17: SET at a FOREACH_BOR callback point. -/
theorem test_set_callback : status? (exec .set (suspended .foreachBor 0)) = some 0x00000B2B#32 := by decide

/-- V-IM-14: ACCESS keeps CH_M. -/
theorem test_access :
    (next? (exec .access { img 3 3 .rgb [(4, 0xFF000005)] with x := 1, y := 1, chM := 0x42 })).map chans =
      some (255#8, 0#8, 0#8, 0x42#8) := by decide

/-- V-TR-2: two cells converted, Masks kept, the tag left. -/
theorem test_foreach_builtin :
    (next? (exec (.foreach 1) (img 2 1 .rgb [(0, 0x00FF0011), (1, 0x0000FF22)]))).map
      (fun s => (cellsOf s, s.space)) = some ([0x55FFFF11#32, 0xAAFFFF22#32], .rgb) := by decide

/-- V-TR-8: FOREACH HOST suspends at (0, 0). -/
theorem test_foreach_host : status? (exec (.foreach 0) img3) = some 0x0000000A#32 := by decide

/-- V-TR-7: only the interior cell is converted. -/
theorem test_foreachIdx_builtin :
    (next? (exec (.foreachIdx 1 1) (img 3 3 .rgb [(0, 0x10203040), (4, 0x10203040)]))).map cellsOf =
      some [0x10203040#32, 0, 0, 0, 0x94AA3040#32, 0, 0, 0, 0] := by decide

/-- V-TR-12: an empty visited set gives no callback point. -/
theorem test_foreachIdx_empty : status? (exec (.foreachIdx 0 2) img3) = some 0x00000002#32 := by decide

/-- V-TR-16: FOREACH_BOR HOST with border 1 stands at (1, 1). -/
theorem test_foreachBor_host :
    (next? (exec (.foreachBor 0 1) img3)).map (fun s => (s.curX, s.curY, s.statusWord)) =
      some (1#16, 1#16, 0x0000002A#32) := by decide

/-- V-TR-6 and V-TR-5: CONVERT RGB, and the no-op. -/
theorem test_convert :
    (next? (exec (.convert .rgb) (img 1 1 .hsv [(0, 0x00FFFF07)]))).map (fun s => (cellsOf s, s.statusWord)) =
      some ([0xFF000007#32], 0x00000002#32) ∧
    (next? (exec (.convert .hsv) (img 1 1 .hsv [(0, 0x00FFFF07)]))).map cellsOf = some [0x00FFFF07#32] := by decide

/-- V-TR-22: HOST_DONE writes the cell and presents the next. -/
theorem test_hostDone :
    (next? (exec .hostDone { suspended .foreach 0 with chB := 0xFF, chC := 0xFF })).map
      (fun s => (s.store.readWord 0, s.curX, s.statusWord)) = some (0x00FFFF00#32, 1#16, 0x0000000A#32) := by decide

/-- V-TR-10 and V-TR-21: the last HOST_DONE, and one with no traversal. -/
theorem test_hostDone_ends :
    status? (exec .hostDone (suspended .foreach 8)) = some 0x00000002#32 ∧
    status? (exec .hostDone img3) = some 0x00000B03#32 := by decide

/-- The 3×3 Mask plane of V-MO-19 to V-MO-24. -/
def plane : State := { img 3 3 .rgb [(0, 1), (1, 2), (2, 1), (3, 0xFF), (4, 1), (5, 3), (6, 1), (7, 1), (8, 2)] with x := 1, y := 1 }

/-- V-MO-19 and V-MO-20. -/
theorem test_checkadj :
    (next? (exec (.checkadj 1 0xFF) plane)).map State.count = some 6#4 ∧
    (next? (exec (.checkadj 1 1) plane)).map State.count = some 5#4 := by decide

/-- V-MO-25: (2, 1) is not interior. -/
theorem test_checkadj_edge : status? (exec (.checkadj 1 1) { plane with x := 2 }) = some 0x00000903#32 := by decide

/-- V-MO-10: 0xFF counts as a match and becomes default; colour is kept. -/
theorem test_erode :
    (next? (exec (.erode 1 0) (img 3 3 .rgb
      [(0, 0xABCDEF01), (1, 1), (2, 1), (3, 1), (4, 0x12345601), (5, 1), (6, 1), (7, 1), (8, 0xFF)]))).map cellsOf =
      some [0xABCDEF01#32, 1, 1, 1, 0x12345601, 1, 1, 1, 0] := by decide +kernel

/-- V-FP-2 and V-FP-1: the sentinel check, and construction before it. -/
theorem test_erode_faults :
    status? (exec (.erode 0xFF 0) img3) = some 0x00000A03#32 ∧ status? (exec (.erode 0xFF 0) dev) = some 0x00000501#32 := by
  decide

/-- V-MO-5: an edge cell is never grown, the centre grows. -/
theorem test_dilate :
    (next? (exec (.dilate 4) (img 3 3 .rgb [(8, 4)]))).map cellsOf = some [0#32, 0, 0, 0, 4, 0, 0, 0, 4] := by decide +kernel

/-- V-MO-8: no interior cell; pass 2 still replaces 0xFF. -/
theorem test_dilate_small :
    (next? (exec (.dilate 1) (img 2 2 .rgb [(0, 0xFF), (1, 1), (2, 1), (3, 1)]))).map cellsOf =
      some [1#32, 1, 1, 1] := by decide +kernel

/-- A command placed by withFetchWord is the very next step: UNPACK as the first after reset. -/
theorem test_withFetchWord :
    (next? (step ({ State.reset with word := 0x01020304 }.withFetchWord 32 0x01000000))).map (fun s => (chans s, s.bus)) =
      some ((1#8, 2#8, 3#8, 4#8), []) := by decide

/-! ### Witnesses: for each statement with hypotheses, a state and operands that meet them -/

theorem witness_DecodeOfEncode : (Instr.foreachBor 0x02#8 0xFFFF#16).wellFormed = true := by decide

theorem witness_EncodeOfDecode : decode 0x2202FFFF#32 = .ok (.foreachBor 0x02#8 0xFFFF#16) := by decide

theorem witness_DecodesExactlyTheOpcodeTable :
    decode 0x3200FF00#32 = .ok (.dilate 0xFF#8) ∧
    (⟨"DILATE", 0x32000000#32, 0xFFFF00FF#32, false⟩ : OpcodeRow) ∈ opcodeTable ∧
    OpcodeRow.fits ⟨"DILATE", 0x32000000#32, 0xFFFF00FF#32, false⟩ 0x3200FF00#32 = true := by decide

theorem witness_StepRunsTheDecodedCommand :
    ({ dev with bus := [.write 0x00#8 0x02000000#32] } : State).fault = false ∧
    ({ dev with bus := [.write 0x00#8 0x02000000#32] } : State).bus = [.write 0x00#8 0x02000000#32] ∧
    decode 0x02000000#32 = .ok .pack ∧ decode 0x02000001#32 = .error .reservedBits := by decide

/-- Every format N statement's last clause: a word of the opcode whose low bits are not all zero, for each of the nine. -/
theorem witness_FormatNCommand :
    ∀ c ∈ [(0x00#8, Instr.nop), (0x01#8, .unpack), (0x02#8, .pack), (0x03#8, .rgb2hsv), (0x04#8, .hsv2rgb),
      (0x11#8, .get), (0x12#8, .set), (0x13#8, .access), (0x2F#8, .hostDone)],
      opcField (c.1 ++ 1#24) = c.1 ∧ (c.1 ++ 1#24 : Word) ≠ encode c.2 := by decide

theorem witness_NopChangesNothing : opcField 0x00800000#32 = 0x00#8 ∧ 0x00800000#32 ≠ encode .nop := by decide

theorem witness_UnpackWritesTheFourChannels : opcField 0x01000001#32 = 0x01#8 ∧ 0x01000001#32 ≠ encode .unpack := by decide

theorem witness_PackWritesWord : opcField 0x02FFFFFF#32 = 0x02#8 ∧ 0x02FFFFFF#32 ≠ encode .pack := by decide

theorem witness_HostReadReturnsTheRegister :
    ({ dev with bus := [.read 0x38#8, .read 0xFC#8] } : State).bus = .read 0x38#8 :: [.read 0xFC#8] ∧
    (0x09#8).toNat % 4 ≠ 0 ∧ 0x38#8 < 0x3C#8 ∧ 0x38#8 < 0xFF#8 := by decide

theorem witness_HostWriteStoresInRange :
    ({ dev with bus := [.write 0x28#8 0xFFFF#32] } : State).fault = false ∧
    ({ dev with bus := [.write 0x28#8 0xFFFF#32] } : State).constructed = false ∧
    ({ dev with bus := [.write 0x28#8 0xFFFF#32] } : State).bus = .write 0x28#8 0xFFFF#32 :: [] ∧
    (0xFFFF#32).toNat ≤ 0xFFFF ∧ (0xFF#32).toNat ≤ 0xFF := by decide

theorem witness_HostWriteFaultsInOrder :
    ({ img3 with bus := [.write 0x24#8 0#32] } : State).fault = false ∧
    ({ img3 with bus := [.write 0x24#8 0#32] } : State).constructed = true ∧ dev.constructed = false ∧
    0x2C#8 ∉ [0x08#8, 0x0C#8, 0x10#8, 0x14#8, 0x18#8, 0x1C#8, 0x20#8, 0x24#8, 0x28#8] ∧
    0x01#8 ∉ [0x08#8, 0x0C#8, 0x10#8, 0x14#8, 0x18#8, 0x1C#8, 0x20#8, 0x24#8, 0x28#8] ∧
    0xFFFF < (0x10000#32).toNat ∧ 0xFF < (0x100#32).toNat := by decide

theorem witness_RaiseLatchesTheFirstViolation :
    dev.fault = false ∧ (dev.raise .badRegister).fault = true := by decide

theorem witness_FaultedDeviceIgnoresWrites :
    ({ dev with fault := true, errcode := .regRange, bus := [.write 0x08#8 5#32] } : State).fault = true ∧
    ({ dev with fault := true, errcode := .regRange, bus := [.write 0x08#8 5#32] } : State).bus =
      .write 0x08#8 5#32 :: [] ∧
    ({ dev with fault := true, bus := [.read 0x04#8] } : State).bus = .read 0x04#8 :: [] ∧
    ({ dev with fault := true, bus := [] } : State).bus = [] ∧
    ({ dev with fault := true, bus := [.reset] } : State).bus = .reset :: [] := by decide

theorem witness_ResetEventPutsTheResetState :
    ({ suspended .foreachBor 3 with fault := true, bus := [.reset] } : State).bus = .reset :: [] := by decide

theorem witness_IdleDeviceHoldsItsState : (suspended .foreach 0).bus = [] := by decide

theorem witness_Rgb2hsvComputesHueSaturationValue :
    (255 : Int) = ({ dev with chA := 255, chC := 255 } : State).chA.toNat ∧
    (0 : Int) = ({ dev with chA := 255, chC := 255 } : State).chB.toNat ∧
    (255 : Int) = ({ dev with chA := 255, chC := 255 } : State).chC.toNat ∧
    (255 : Int) = max 255 (max 0 255) ∧ (255 : Int) = 255 - min 255 (min 0 255) ∧
    (-255 : Int) = (if (255 : Int) = 255 then Int.tdiv (255 * (0 - 255)) 255
      else if (0 : Int) = 255 then Int.tdiv (255 * (255 - 255)) 255 + 510
      else Int.tdiv (255 * (255 - 0)) 255 + 1020) := by decide

theorem witness_RgbToHsvBounds :
    (255 : Int) = (255#8 : Byte).toNat ∧ (0 : Int) = (0#8 : Byte).toNat ∧ (255 : Int) = colourDelta 255 0 255 ∧
    (255 : Int) ≠ 0 ∧ (-255 : Int) ∈ [(0 : Int) - 255, 255 - 255, 255 - 0] := by decide

theorem witness_HueTieBreakIsUnobservable :
    (colourDelta (9#8).toNat (9#8).toNat (0#8).toNat ≠ 0 ∧
      ((9#8).toNat : Int) = colourValue (9#8).toNat (9#8).toNat (0#8).toNat) ∧
    (colourDelta (0#8).toNat (9#8).toNat (9#8).toNat ≠ 0 ∧
      ((9#8).toNat : Int) = colourValue (0#8).toNat (9#8).toNat (9#8).toNat) ∧
    (colourDelta (9#8).toNat (0#8).toNat (9#8).toNat ≠ 0 ∧
      ((9#8).toNat : Int) = colourValue (9#8).toNat (0#8).toNat (9#8).toNat) := by decide

theorem witness_Hsv2rgbComputesTheSector :
    (43 : Int) = ({ dev with chA := 43, chB := 255, chC := 255 } : State).chA.toNat ∧
    (255 : Int) = ({ dev with chA := 43, chB := 255, chC := 255 } : State).chB.toNat ∧
    (255 : Int) = ({ dev with chA := 43, chB := 255, chC := 255 } : State).chC.toNat ∧
    (255 : Int) = 255 * 255 / 255 ∧ (252 : Int) = 255 * (255 - |6 * 43 % 510 - 255|) / 255 ∧ (0 : Int) = 255 - 255 := by
  decide

theorem witness_ConstructZeroFillsTheImage :
    (opcField 0x10000002#32 = 0x10#8 ∧ 0x10000002#32 ≠ 0x10000000#32 ∧ 0x10000002#32 ≠ 0x10000001#32) ∧
    (suspended .foreach 0).trav.active = true ∧ (img3.trav.active = false ∧ img3.constructed = true) ∧
    (dev.trav.active = false ∧ dev.constructed = false) ∧
    ({ dev with width := 5, height := 13 } : State).capacity.toNat < (5#16).toNat * (13#16).toNat ∧
    (8#16).toNat * (8#16).toNat ≤ ({ dev with width := 8, height := 8 } : State).capacity.toNat := by decide

/-- For GET and ACCESS: a blocked callback point, no image, the first coordinate outside, and the last one inside. -/
theorem witness_GetReadsTheCell :
    (suspended .foreachIdx 0).readBlocked ∧ (¬ dev.readBlocked ∧ dev.constructed = false) ∧
    (¬ img3.readBlocked ∧ img3.constructed = true ∧ ¬ ((3#16).toNat < img3.width.toNat ∧ (0#16).toNat < img3.height.toNat)) ∧
    (¬ (suspended .foreachBor 0).readBlocked ∧ (suspended .foreachBor 0).constructed = true ∧
      (2#16).toNat < (suspended .foreachBor 0).width.toNat ∧ (2#16).toNat < (suspended .foreachBor 0).height.toNat) := by
  decide

theorem witness_AccessReadsTheColour :
    (suspended .foreach 0).readBlocked ∧ (¬ dev.readBlocked ∧ dev.constructed = false) ∧
    (¬ img3.readBlocked ∧ img3.constructed = true ∧ ¬ ((0#16).toNat < img3.width.toNat ∧ (3#16).toNat < img3.height.toNat)) ∧
    (¬ img3.readBlocked ∧ (2#16).toNat < img3.width.toNat ∧ (2#16).toNat < img3.height.toNat) := by decide

theorem witness_SetWritesTheCell :
    (suspended .foreachBor 0).trav.active = true ∧ (dev.trav.active = false ∧ dev.constructed = false) ∧
    (img3.trav.active = false ∧ img3.constructed = true) ∧
    ¬ ((3#16).toNat < img3.width.toNat ∧ (2#16).toNat < img3.height.toNat) ∧
    ((2#16).toNat < img3.width.toNat ∧ (2#16).toNat < img3.height.toNat) := by decide

theorem witness_GetAfterSetReadsWord :
    img3.constructed = true ∧ img3.trav.active = false ∧ img3.x.toNat < img3.width.toNat ∧ img3.y.toNat < img3.height.toNat ∧
    ∃ t, exec .set img3 = .next t ∧ ∃ u, exec .get { t with word := 9 } = .next u :=
  ⟨by decide, by decide, by decide, by decide, _, rfl, _, rfl⟩

theorem witness_TraversalChecksAndEmptySets :
    (traversalOf (.foreachIdx 0x03#8 0#16) = some (.foreachIdx, 0x03#8, 0) ∧ 2 < (0x03#8).toNat) ∧
    (traversalOf (.foreach 0x02#8) = some (.foreach, 0x02#8, 0) ∧ (0x02#8).toNat ≤ 2) ∧
    (suspended .foreach 0).trav.active = true ∧ dev.constructed = false ∧ dev.trav.active = false ∧
    (traversalOf (.foreachBor 0x00#8 2#16) = some (.foreachBor, 0x00#8, 2) ∧ img3.width.toNat ≤ 2 * 2) ∧
    (traversalOf (.foreachIdx 0x00#8 1#16) = some (.foreachIdx, 0x00#8, 1) ∧ (img 2 3 .rgb []).trav.active = false ∧
      (img 2 3 .rgb []).constructed = true ∧ (img 2 3 .rgb []).width.toNat = 2 * 1 ∧
      ¬ (img 2 3 .rgb []).height.toNat ≤ 2 * 1) ∧
    ((img 3 2 .rgb []).height.toNat = 2 * 1 ∧ ¬ (img 3 2 .rgb []).width.toNat ≤ 2 * 1) := by decide

theorem witness_BuiltinTraversalConvertsVisitedCells :
    traversalOf (.foreachBor 0x02#8 1#16) = some (.foreachBor, 0x02#8, 1) ∧ img3.trav.active = false ∧
    img3.constructed = true ∧ img3.visits 1 ⟨1, 1⟩ ∧ img3.pix ⟨1, 1⟩ = 0#8 ++ 0#8 ++ 0#8 ++ 0#8 := by decide

theorem witness_HostTraversalSuspendsAtTheFirstCell :
    traversalOf (.foreachIdx 0x00#8 1#16) = some (.foreachIdx, 0x00#8, 1) ∧ img3.trav.active = false ∧
    img3.constructed = true ∧ 2 * 1 < img3.width.toNat ∧ 2 * 1 < img3.height.toNat := by decide

theorem witness_HostDoneWritesTheCellAndMovesOn :
    img3.trav.active = false ∧ ((suspended .foreach 7).trav.active = true ∧ (suspended .foreach 7).constructed = true) ∧
    ((suspended .foreach 7).trav.cells[(suspended .foreach 7).trav.index]? = some ⟨1, 2⟩ ∧
      (suspended .foreach 7).visits 0 ⟨1, 2⟩ ∧
      (suspended .foreach 7).trav.cells[(suspended .foreach 7).trav.index + 1]? = some ⟨2, 2⟩ ∧
      (suspended .foreach 7).visits 0 ⟨2, 2⟩) ∧
    ((suspended .foreach 8).trav.cells[(suspended .foreach 8).trav.index]? = some ⟨2, 2⟩ ∧
      (suspended .foreach 8).visits 0 ⟨2, 2⟩ ∧
      (suspended .foreach 8).trav.index + 1 = (suspended .foreach 8).trav.cells.length) := by decide

theorem witness_ConvertConvertsTheImage :
    (opcField 0x23000002#32 = 0x23#8 ∧ 0x23000002#32 ≠ 0x23000000#32 ∧ 0x23000002#32 ≠ 0x23000001#32) ∧
    (suspended .foreach 0).trav.active = true ∧ (dev.trav.active = false ∧ dev.constructed = false) ∧
    (img3.trav.active = false ∧ img3.constructed = true ∧ img3.space = .rgb ∧ img3.space ≠ .hsv) ∧
    img3.visits 0 ⟨2, 2⟩ ∧ img3.pix ⟨2, 2⟩ = 0#8 ++ 0#8 ++ 0#8 ++ 0#8 := by decide

theorem suspended_zero_inv (md : TravMode) (n : Nat) (hn : n < 9) : Inv (suspended md n) where
  store_wf := Memory.wf_nil
  snap_wf := Memory.wf_nil
  store_bound := fun c hc => by cases hc
  snap_bound := fun c hc => by cases hc
  fault_code := ⟨fun h => absurd (show false = true from h) (by decide), fun h => absurd rfl h⟩
  space_rgb := fun _ => rfl
  image_fits := fun _ => show 3 * 3 ≤ 64 by decide
  idle := fun h => absurd (show true = false from h) (by decide)
  suspended := fun _ => ⟨rfl, 0#16, rfl, fun _ => rfl⟩
  at_cell := fun _ => by interval_cases n <;> exact ⟨_, rfl, rfl, rfl⟩
  count_le := show 0 ≤ 9 by decide

theorem witness_TraversalTakesOneHostDonePerCell :
    Inv (suspended .foreach 4) ∧ (suspended .foreach 4).fault = false ∧ (suspended .foreach 4).trav.active = true ∧
    (suspended .foreach 4).trav.index + 4 < (suspended .foreach 4).trav.cells.length ∧
    (suspended .foreach 4).trav.index + 5 = (suspended .foreach 4).trav.cells.length :=
  ⟨suspended_zero_inv _ _ (by decide), by decide, by decide, by decide, by decide⟩

theorem witness_CheckadjCountsTheNeighbourhood :
    (opcField 0x30010000#32 = 0x30#8 ∧ kernelField 0x30010000#32 ≠ 0) ∧ (suspended .foreach 0).readBlocked ∧
    (¬ dev.readBlocked ∧ dev.constructed = false) ∧
    (¬ img3.readBlocked ∧ img3.constructed = true ∧ ¬ img3.visits 1 ⟨img3.x.toNat, img3.y.toNat⟩) ∧
    (¬ plane.readBlocked ∧ plane.constructed = true ∧ plane.visits 1 ⟨plane.x.toNat, plane.y.toNat⟩) := by decide

theorem witness_ErodeAndDilateCheckInOrder :
    (∃ t d, Instr.erode 1 0xFF = .erode t d ∧ [1#8, 0xFF#8] = [t, d]) ∧ (suspended .foreach 0).trav.active = true ∧
    (dev.trav.active = false ∧ dev.constructed = false) ∧
    (img3.trav.active = false ∧ img3.constructed = true ∧ 0xFF#8 ∈ [1#8, 0xFF#8]) :=
  ⟨⟨_, _, rfl, rfl⟩, by decide, by decide, by decide⟩

theorem witness_ErodeIsItsClosedForm :
    plane.trav.active = false ∧ plane.constructed = true ∧ 1#8 ≠ 0xFF#8 ∧ 0#8 ≠ 0xFF#8 ∧ plane.visits 0 ⟨2, 2⟩ ∧
    plane.visits 1 ⟨1, 1⟩ := by decide

theorem witness_DilateIsItsClosedForm :
    plane.trav.active = false ∧ plane.constructed = true ∧ 3#8 ≠ 0xFF#8 ∧ plane.visits 0 ⟨0, 0⟩ ∧ plane.visits 1 ⟨1, 1⟩ := by
  decide

theorem witness_SentinelNeverLeaks :
    (∃ t d, Instr.erode 1 0 = .erode t d ∧ t ≠ 0xFF#8 ∧ d ≠ 0xFF#8) ∧ plane.trav.active = false ∧ plane.constructed = true ∧
    (∃ u, exec (.erode 1 0) plane = .next u) ∧ plane.visits 0 ⟨0, 1⟩ :=
  ⟨⟨1, 0, rfl, by decide, by decide⟩, by decide, by decide, ⟨_, rfl⟩, by decide⟩

/-- A 3×3 image whose every Mask is 0. -/
theorem img3_mask : ∀ p, img3.visits 0 p → img3.mask p = 0#8 := by
  rintro ⟨x, y⟩ ⟨-, hx, -, hy⟩
  have hx' : x < 3 := hx
  have hy' : y < 3 := hy
  interval_cases x <;> interval_cases y <;> decide

theorem witness_ErodeKeepsUniformRegions :
    img3.trav.active = false ∧ img3.constructed = true ∧ 0#8 ≠ 0xFF#8 ∧ 1#8 ≠ 0xFF#8 ∧
    (∃ u, exec (.erode 0 1) img3 = .next u) ∧
    (img3.visits 1 ⟨1, 1⟩ ∧ ∀ q, near ⟨1, 1⟩ q → img3.mask q = 0#8) ∧
    (img3.visits 0 ⟨2, 0⟩ ∧ ¬ img3.visits 1 ⟨2, 0⟩ ∧ img3.mask ⟨2, 0⟩ ≠ 0xFF#8) :=
  ⟨by decide, by decide, by decide, by decide, ⟨_, rfl⟩,
    ⟨by decide, fun q ⟨_, hx, _, hy⟩ => img3_mask q ⟨Nat.zero_le _, Nat.lt_succ_of_le hx, Nat.zero_le _, Nat.lt_succ_of_le hy⟩⟩,
    by decide⟩

/-- A 3×3 image with Mask 1 at (1, 1) and 0 elsewhere: the block x = y = 1. -/
def dot : State := img 3 3 .rgb [(4, 1)]

theorem dot_mask : ∀ p, dot.visits 0 p →
    dot.mask p = if 1 ≤ p.x ∧ p.x ≤ 1 ∧ 1 ≤ p.y ∧ p.y ≤ 1 then 1#8 else 0#8 := by
  rintro ⟨x, y⟩ ⟨-, hx, -, hy⟩
  have hx' : x < 3 := hx
  have hy' : y < 3 := hy
  interval_cases x <;> interval_cases y <;> decide

theorem witness_ErodeShrinksABlockByItsRing :
    dot.trav.active = false ∧ dot.constructed = true ∧ 1 + 1 < dot.width.toNat ∧ 1 + 1 < dot.height.toNat ∧
    (∀ p, dot.visits 0 p → dot.mask p = if 1 ≤ p.x ∧ p.x ≤ 1 ∧ 1 ≤ p.y ∧ p.y ≤ 1 then 1#8 else 0#8) ∧
    (∃ u, exec (.erode 1 0) dot = .next u) ∧ dot.visits 0 ⟨1, 1⟩ :=
  ⟨by decide, by decide, by decide, by decide, dot_mask, ⟨_, rfl⟩, by decide⟩

theorem witness_DilateGrowsABlockByItsRing :
    dot.trav.active = false ∧ dot.constructed = true ∧ 1 + 1 < dot.width.toNat ∧ 1 + 1 < dot.height.toNat ∧
    (∀ p, dot.visits 0 p → dot.mask p = if 1 ≤ p.x ∧ p.x ≤ 1 ∧ 1 ≤ p.y ∧ p.y ≤ 1 then 1#8 else 0#8) ∧
    (∃ u, exec (.dilate 1) dot = .next u) ∧ dot.visits 0 ⟨2, 0⟩ :=
  ⟨by decide, by decide, by decide, by decide, dot_mask, ⟨_, rfl⟩, by decide⟩

theorem witness_CallbackPointPermitsOnlyItsCommands :
    (suspended .foreachIdx 0).trav.active = true ∧ permittedAtCallback .get (suspended .foreachIdx 0).trav.mode = false ∧
    permittedAtCallback .get (suspended .foreachBor 0).trav.mode = true ∧
    (suspended .foreachBor 0).errcode ≠ .callbackViolation ∧ (∃ t, exec .get (suspended .foreachBor 0) = .next t) :=
  ⟨by decide, by decide, by decide, by decide, ⟨_, rfl⟩⟩

theorem witness_ImageCommandsNeedAnImage :
    (Instr.erode 0xFF 0).wellFormed = true ∧ needsImage (.erode 0xFF 0) = true ∧ dev.trav.active = false ∧
    dev.constructed = false := by decide

theorem witness_FaultingCommandHasNoOtherEffect :
    dev.fault = false ∧ ∃ t, exec .get dev = .next t ∧ t.fault = true := ⟨by decide, _, rfl, by decide⟩

theorem witness_NoCommandWritesTheHostsRegisters : ∃ t, exec .hostDone (suspended .foreach 3) = .next t := ⟨_, rfl⟩

theorem witness_RegistersChangeOnlyThroughTheirWriters :
    (∃ t, exec (.foreach 1) img3 = .next t) ∧ (∀ a b, Instr.foreach 1 ≠ .checkadj a b) ∧
    (∀ sp, Instr.foreach 1 ≠ .construct sp) ∧ (∀ sp, Instr.foreach 1 ≠ .convert sp) ∧
    (∀ md b, traversalOf (.foreach 1) ≠ some (md, 0x00#8, b)) ∧ Instr.foreach 1 ≠ .hostDone ∧
    (∀ a b, Instr.foreach 1 ≠ .erode a b) ∧ (∀ a, Instr.foreach 1 ≠ .dilate a) :=
  ⟨⟨_, rfl⟩, by simp, by simp, by simp, by simp [traversalOf], by simp, by simp, by simp⟩

theorem witness_ImageLastsUntilReset :
    ({ img3 with bus := [.write 0x24#8 5#32] } : State).constructed = true ∧
    ({ img3 with bus := [.write 0x24#8 5#32] } : State).bus.head? ≠ some .reset ∧
    ∃ t, step { img3 with bus := [.write 0x24#8 5#32] } = .next t := ⟨by decide, by decide, _, rfl⟩

/-- A faulted device with one access pending. -/
def faulted (e : HostEvent) : State := { img3 with fault := true, errcode := .dimLocked, bus := [e] }

theorem witness_FaultLastsUntilReset :
    (faulted (.write 0x00#8 0#32)).fault = true ∧ (faulted (.write 0x00#8 0#32)).bus.head? ≠ some .reset ∧
    (∃ t, step (faulted (.write 0x00#8 0#32)) = .next t) ∧
    ((∃ t, step (faulted (.read 0x38#8)) = .next t) ∧ (faulted (.read 0x38#8)).bus.head? = some (.read 0x38#8)) ∧
    ∀ off, (faulted (.write 0x00#8 0#32)).bus.head? ≠ some (.read off) :=
  ⟨by decide, by decide, ⟨_, rfl⟩, ⟨⟨_, rfl⟩, by decide⟩, fun _ h => nomatch h⟩

theorem witness_EveryStepKeepsTheInvariant :
    Inv (suspended .foreachBor 8) ∧ ∃ t, step (suspended .foreachBor 8) = .next t :=
  ⟨suspended_zero_inv _ _ (by decide), _, rfl⟩

theorem witness_EveryStepCompletes : Inv (suspended .foreachIdx 0) := suspended_zero_inv _ _ (by decide)

/-- Two reset devices whose stores and snapshot buffers hold different leftovers. -/
theorem witness_UnspecifiedStorageIsUnobservable :
    SameObservable dev { dev with store := [(0, 7#8)], snap := [(3, 1#8)] } ∧
    ({ dev with store := [(0, 7#8)], snap := [(3, 1#8)] } : State) ≠ dev ∧ ∃ t, step dev = .next t :=
  ⟨⟨rfl, fun h => absurd (show false = true from h) (by decide)⟩,
    fun h => absurd (congrArg State.store h) (by decide), _, rfl⟩

end Sys2Proof.Tests
end

section
/-! Progress: from every state of `Inv` the next host access completes. Only HOST_DONE can stop the machine, and only at a
cell that is not defined; `Inv` makes every cell of a suspended traversal a cell of the constructed image. -/

namespace Sys2Proof.Machine

/-! ### HOST_DONE, one equation per case (44_traversal.md R179) -/

theorem exec_hostDone (s : State) : exec .hostDone s = execHostDone s := rfl

/-- Without a suspended traversal HOST_DONE is a contract violation. -/
theorem execHostDone_of_idle {s : State} (ha : s.trav.active = false) :
    execHostDone s = .next (s.raise .callbackViolation) := by
  simp [execHostDone, ha]

/-- At the last visited cell HOST_DONE writes the cell and ends the traversal. -/
theorem execHostDone_of_last {s : State} {p : Coord} (ha : s.trav.active = true)
    (hp : s.trav.cells[s.trav.index]? = some p) (hdef : s.cellDefined p = true)
    (hq : s.trav.cells[s.trav.index + 1]? = none) :
    execHostDone s = .next (s.setPix p (pack s.channels)).endTraversal := by
  unfold execHostDone
  simp only [ha, hp, hdef, hq, Bool.true_eq_false, if_false]

/-- At an earlier visited cell HOST_DONE writes the cell and presents the next one. -/
theorem execHostDone_of_more {s : State} {p q : Coord} (ha : s.trav.active = true)
    (hp : s.trav.cells[s.trav.index]? = some p) (hdef : s.cellDefined p = true)
    (hq : s.trav.cells[s.trav.index + 1]? = some q) (hdef' : s.cellDefined q = true) :
    execHostDone s = .next (State.present q
      { s.setPix p (pack s.channels) with trav := { s.trav with index := s.trav.index + 1 } }) := by
  unfold execHostDone
  simp only [ha, hp, hdef, hq, hdef', Bool.true_eq_false, if_false]

/-! ### What the invariant gives -/

/-- The invariant says nothing of the accesses the host has yet to make. -/
theorem Inv.withBus {s : State} (h : Inv s) (bus : List HostEvent) : Inv { s with bus := bus } where
  store_wf := h.store_wf
  snap_wf := h.snap_wf
  store_bound := h.store_bound
  snap_bound := h.snap_bound
  fault_code := h.fault_code
  space_rgb := h.space_rgb
  image_fits := h.image_fits
  idle := h.idle
  suspended := h.suspended
  at_cell := h.at_cell
  count_le := h.count_le

/-- Every cell of a suspended traversal is a cell of the constructed image. -/
theorem Inv.cellDefined_of_getElem? {s : State} (h : Inv s) (ha : s.trav.active = true) {i : Nat} {p : Coord}
    (hp : s.trav.cells[i]? = some p) : s.cellDefined p = true := by
  obtain ⟨hcon, b, hcells, -⟩ := h.suspended ha
  have hmem : p ∈ s.visited b.toNat := hcells ▸ List.mem_of_getElem? hp
  simp [State.cellDefined, hcon, State.inImage_of_mem_visited hmem]

/-! ### Progress, from HOST_DONE up to a step -/

theorem execHostDone_completes {s : State} (h : Inv s) : ∃ t, execHostDone s = .next t := by
  cases ha : s.trav.active with
  | false => exact ⟨_, execHostDone_of_idle ha⟩
  | true =>
    obtain ⟨p, hp, -, -⟩ := h.at_cell ha
    have hdef : s.cellDefined p = true := h.cellDefined_of_getElem? ha hp
    cases hq : s.trav.cells[s.trav.index + 1]? with
    | none => exact ⟨_, execHostDone_of_last ha hp hdef hq⟩
    | some q => exact ⟨_, execHostDone_of_more ha hp hdef hq (h.cellDefined_of_getElem? ha hq)⟩

theorem exec_completes {s : State} (h : Inv s) (i : Instr) : ∃ t, exec i s = .next t := by
  by_cases hi : i = .hostDone
  · rw [hi, exec_hostDone]
    exact execHostDone_completes h
  · exact exec_next_of_ne_hostDone i hi s

theorem issue_completes {s : State} (h : Inv s) (w : Word) : ∃ t, issue w s = .next t := by
  cases hd : decode w with
  | error e => exact ⟨_, issue_of_illegal hd s⟩
  | ok i =>
    rw [issue_of_decode hd]
    exact exec_completes h i

theorem hostWrite_completes {s : State} (h : Inv s) (off : BitVec 8) (v : Word) : ∃ t, hostWrite off v s = .next t := by
  rcases hostWrite_cases off v s with ⟨-, hw⟩ | ⟨-, -, hw⟩ | ⟨-, -, hw⟩
  · exact ⟨_, hw⟩
  · rw [hw]
    exact issue_completes h v
  · exact ⟨_, hw⟩

theorem deliver_completes {s : State} (h : Inv s) (e : HostEvent) : ∃ t, deliver e s = .next t := by
  cases e with
  | read off => exact ⟨_, rfl⟩
  | write off v => exact hostWrite_completes h off v
  | reset => exact ⟨_, rfl⟩

/-- Settles O57: idle holds the state; an access is delivered in a state that still meets the invariant, and completes. -/
theorem everyStepCompletes : Obligations.EveryStepCompletes := by
  intro s h
  cases hb : s.bus with
  | nil => exact ⟨s, step_of_idle hb⟩
  | cons e rest =>
    rw [step_of_bus hb]
    exact deliver_completes (h.withBus rest) e

end Sys2Proof.Machine
end

section
/-! What a command can do, said once: every command is its checks, in the order of 60_exceptions.md R228, and then one
effect. The frame of the effects, and what they do to each register, follow from this form. -/

namespace Sys2Proof.Machine

/-! ### The form of every command -/

/-- A traversal's body by its KERNEL field; a field that names no kernel fails `State.kernelCheck` first. -/
def State.traverseField (md : TravMode) (kernel : Byte) (b : Nat) (s : State) : State :=
  match Kernel.ofField kernel with
  | none => s
  | some k => s.traverse md k b

/-- HOST_DONE's writes at the callback point (44_traversal.md R179). -/
def State.finishCell (s : State) : State :=
  match s.trav.cells[s.trav.index]?, s.trav.cells[s.trav.index + 1]? with
  | none, _ => s
  | some p, none => (s.setPix p (pack s.channels)).endTraversal
  | some p, some q => State.present q
      { s.setPix p (pack s.channels) with trav := { s.trav with index := s.trav.index + 1 } }

/-- The kernel with which CONVERT goes over the image (44_traversal.md R183). -/
def convertKernel : Space → Word → Word
  | .hsv => kernelRgb2hsv
  | .rgb => kernelHsv2rgb

/-- CONVERT's writes: none when the tag already is the target (44_traversal.md R183). -/
def State.convertTo (sp : Space) (s : State) : State :=
  if s.space = sp then s else { s.traverseBuiltin (convertKernel sp) 0 with space := sp }

theorem State.convertTo_of_eq {s : State} {sp : Space} (h : s.space = sp) : s.convertTo sp = s := if_pos h

theorem State.convertTo_of_ne {s : State} {sp : Space} (h : s.space ≠ sp) :
    s.convertTo sp = { s.traverseBuiltin (convertKernel sp) 0 with space := sp } := if_neg h

/-- Step 1 for a traversal command: its KERNEL field names a kernel (30_encoding.md R81). -/
def kernelCheck (kernel : Byte) : Bool × ErrCode := ((Kernel.ofField kernel).isNone, .illegalCommand)

/-- The checks a command makes before its effect, in their order (60_exceptions.md R228). -/
def commandChecks (i : Instr) (s : State) : List (Bool × ErrCode) :=
  match i with
  | .nop | .unpack | .pack | .rgb2hsv | .hsv2rgb => []
  | .construct _ =>
    [s.busyCheck, (s.constructed, .alreadyConstructed), (decide (s.capacity.toNat < s.area), .capacity)]
  | .get | .access => [s.borrowCheck, s.imageCheck, s.inImageCheck s.coord]
  | .set => [s.busyCheck, s.imageCheck, s.inImageCheck s.coord]
  | .foreach k | .foreachIdx k _ | .foreachBor k _ => [kernelCheck k, s.busyCheck, s.imageCheck]
  | .convert _ => [s.busyCheck, s.imageCheck]
  | .hostDone => [(!s.trav.active, .callbackViolation)]
  | .checkadj _ _ => [s.borrowCheck, s.imageCheck, s.interiorCheck s.coord]
  | .erode t d => [s.busyCheck, s.imageCheck, (decide (t = sentinel ∨ d = sentinel), .sentinelCollision)]
  | .dilate t => [s.busyCheck, s.imageCheck, (decide (t = sentinel), .sentinelCollision)]

/-- What a command writes once its checks are passed. -/
def commandEffect (i : Instr) (s : State) : State :=
  match i with
  | .nop => s
  | .unpack => s.setChannels (unpack s.word)
  | .pack => { s with word := pack s.channels }
  | .rgb2hsv => s.setColour (rgbToHsv s.chA s.chB s.chC)
  | .hsv2rgb => s.setColour (hsvToRgb s.chA s.chB s.chC)
  | .construct sp => { s with store := s.store.zeroWords s.area, constructed := true, space := sp }
  | .get => { s with word := s.pix s.coord }
  | .set => s.setPix s.coord s.word
  | .access =>
    s.setColour ((unpack (s.pix s.coord)).a, (unpack (s.pix s.coord)).b, (unpack (s.pix s.coord)).c)
  | .foreach k => s.traverseField .foreach k 0
  | .foreachIdx k b => s.traverseField .foreachIdx k b.toNat
  | .foreachBor k b => s.traverseField .foreachBor k b.toNat
  | .convert sp => s.convertTo sp
  | .hostDone => s.finishCell
  | .checkadj t u => { s with count := BitVec.ofNat 4 (neighbourCount s.liveMask s.coord t u) }
  | .erode t d => (s.takeSnapshot.erodeMark t).resolveSentinel d
  | .dilate t => (s.takeSnapshot.dilateMark t).resolveSentinel t

/-- Every check of a command is passed. -/
def passesChecks (i : Instr) (s : State) : Prop := ∀ c ∈ commandChecks i s, c.1 = false

/-! ### Every command has this form -/

theorem State.traversalCommand_eq (md : TravMode) (kernel : Byte) (b : Nat) (s : State) :
    s.traversalCommand md kernel b =
      guarded [kernelCheck kernel, s.busyCheck, s.imageCheck] s (s.traverseField md kernel b) := by
  unfold State.traversalCommand State.traverseField kernelCheck
  cases Kernel.ofField kernel <;> rfl

theorem exec_of_ne_hostDone {i : Instr} (h : i ≠ .hostDone) (s : State) :
    exec i s = .next (guarded (commandChecks i s) s (commandEffect i s)) := by
  cases i with
  | hostDone => exact absurd rfl h
  | foreach k => exact congrArg Host.Outcome.next (s.traversalCommand_eq .foreach k 0)
  | foreachIdx k b => exact congrArg Host.Outcome.next (s.traversalCommand_eq .foreachIdx k b.toNat)
  | foreachBor k b => exact congrArg Host.Outcome.next (s.traversalCommand_eq .foreachBor k b.toNat)
  | _ => rfl

/-- A command that completes is its checks and then its effect. -/
theorem eq_guarded_of_exec {i : Instr} {s t : State} (h : exec i s = .next t) :
    t = guarded (commandChecks i s) s (commandEffect i s) := by
  by_cases hi : i = .hostDone
  · subst hi
    rw [exec_hostDone] at h
    rcases execHostDone_cases s with
      ⟨ha, he⟩ | ⟨-, he⟩ | ⟨p, ha, hp, -, hq, he⟩ | ⟨p, q, ha, hp, -, hq, -, he⟩ <;>
      rw [he] at h <;> cases h
    · simp [commandChecks, ha]
    · simp [commandChecks, commandEffect, State.finishCell, ha, hp, hq]
    · simp [commandChecks, commandEffect, State.finishCell, ha, hp, hq]
  · rw [exec_of_ne_hostDone hi] at h
    cases h
    rfl

/-! ### Reasoning by the form -/

/-- To show something of a checked effect, show it of every fault a check can raise and, all checks passed, of the effect. -/
theorem guarded_induction {P : State → Prop} {cs : List (Bool × ErrCode)} {s k : State}
    (hraise : ∀ c ∈ cs, P (s.raise c.2)) (hk : (∀ c ∈ cs, c.1 = false) → P k) : P (guarded cs s k) := by
  rcases guarded_cases cs s k with ⟨hall, he⟩ | ⟨pre, e, post, hcs, -, he⟩ <;> rw [he]
  · exact hk hall
  · exact hraise (true, e) (by simp [hcs])

/-- Every check names a fault: none raises NONE. -/
theorem commandChecks_code {i : Instr} {s : State} : ∀ c ∈ commandChecks i s, c.2 ≠ .none := by
  cases i <;> simp [commandChecks, kernelCheck, State.busyCheck, State.borrowCheck, State.imageCheck,
    State.inImageCheck, State.interiorCheck]

/-- All a completed command can do: raise a fault, or, its checks passed, its effect. -/
theorem exec_cases {i : Instr} {s t : State} (h : exec i s = .next t) :
    (∃ e, e ≠ .none ∧ t = s.raise e) ∨ (passesChecks i s ∧ t = commandEffect i s) :=
  eq_guarded_of_exec h ▸
    guarded_induction (P := fun t => (∃ e, e ≠ .none ∧ t = s.raise e) ∨ (passesChecks i s ∧ t = commandEffect i s))
      (fun c hc => .inl ⟨c.2, commandChecks_code c hc, rfl⟩) fun hall => .inr ⟨hall, rfl⟩

/-! ### The frame of the effects -/

/-- `s` with the fields that some command writes as `t` has them. -/
def State.withOutputsOf (s t : State) : State :=
  { s with
    constructed := t.constructed, space := t.space, word := t.word, chA := t.chA, chB := t.chB, chC := t.chC,
    chM := t.chM, curX := t.curX, curY := t.curY, count := t.count, trav := t.trav, store := t.store, snap := t.snap }

/-- `s` with the fields that a traversal writes as `t` has them. -/
def State.withTraversalOf (s t : State) : State :=
  { s with
    chA := t.chA, chB := t.chB, chC := t.chC, chM := t.chM, curX := t.curX, curY := t.curY, trav := t.trav,
    store := t.store }

theorem State.eq_withOutputsOf {s t : State} (h : t = s.withTraversalOf t) : t = s.withOutputsOf t := by
  rw [h]
  rfl

theorem State.traverseHost_frame (md : TravMode) (b : Nat) (s : State) :
    s.traverseHost md b = s.withTraversalOf (s.traverseHost md b) := by
  cases hv : s.visited b with
  | nil => rw [State.traverseHost_of_nil hv]; rfl
  | cons p ps => rw [State.traverseHost_of_cons hv]; rfl

/-- A traversal writes the store, the traversal state, the cursor and the channels, and nothing else. -/
theorem State.traverseField_frame (md : TravMode) (k : Byte) (b : Nat) (s : State) :
    s.traverseField md k b = s.withTraversalOf (s.traverseField md k b) := by
  unfold State.traverseField
  cases Kernel.ofField k with
  | none => rfl
  | some k =>
    cases k with
    | host => exact s.traverseHost_frame md b
    | kRgb2hsv => rfl
    | kHsv2rgb => rfl

/-- A traversal with a built-in kernel writes the store and nothing else (44_traversal.md R176). -/
theorem State.traverseField_of_ne_host {k : Byte} (hk : k ≠ 0x00#8) (md : TravMode) (b : Nat) (s : State) :
    s.traverseField md k b = { s with store := (s.traverseField md k b).store } := by
  unfold State.traverseField Kernel.ofField
  rw [if_neg hk]
  split_ifs <;> rfl

/-- HOST_DONE writes the store, the traversal state, the cursor and the channels, and nothing else. -/
theorem State.finishCell_frame (s : State) : s.finishCell = s.withTraversalOf s.finishCell := by
  unfold State.finishCell
  cases s.trav.cells[s.trav.index]? with
  | none => rfl
  | some p => cases s.trav.cells[s.trav.index + 1]? <;> rfl

/-- CONVERT writes the store and SPACE, and nothing else (44_traversal.md R183). -/
theorem State.convertTo_frame (sp : Space) (s : State) :
    s.convertTo sp = { s with store := (s.convertTo sp).store, space := (s.convertTo sp).space } := by
  by_cases h : s.space = sp
  · rw [State.convertTo_of_eq h]
  · rw [State.convertTo_of_ne h]
    rfl

/-- No effect writes FAULT, ERRCODE, X, Y, WIDTH, HEIGHT, CAPACITY or the host's side of the bus. -/
theorem commandEffect_frame (i : Instr) (s : State) : commandEffect i s = s.withOutputsOf (commandEffect i s) := by
  cases i with
  | foreach k => exact State.eq_withOutputsOf (s.traverseField_frame .foreach k 0)
  | foreachIdx k b => exact State.eq_withOutputsOf (s.traverseField_frame .foreachIdx k b.toNat)
  | foreachBor k b => exact State.eq_withOutputsOf (s.traverseField_frame .foreachBor k b.toNat)
  | hostDone => exact State.eq_withOutputsOf s.finishCell_frame
  | convert sp =>
    change s.convertTo sp = s.withOutputsOf (s.convertTo sp)
    rw [State.convertTo_frame]
    rfl
  | _ => rfl

/-! ### Each register changes only through its writers -/

@[simp] theorem State.traverseField_count (md : TravMode) (k : Byte) (b : Nat) (s : State) :
    (s.traverseField md k b).count = s.count := by rw [State.traverseField_frame]; rfl
@[simp] theorem State.traverseField_space (md : TravMode) (k : Byte) (b : Nat) (s : State) :
    (s.traverseField md k b).space = s.space := by rw [State.traverseField_frame]; rfl
@[simp] theorem State.traverseField_constructed (md : TravMode) (k : Byte) (b : Nat) (s : State) :
    (s.traverseField md k b).constructed = s.constructed := by rw [State.traverseField_frame]; rfl
@[simp] theorem State.traverseField_snap (md : TravMode) (k : Byte) (b : Nat) (s : State) :
    (s.traverseField md k b).snap = s.snap := by rw [State.traverseField_frame]; rfl
@[simp] theorem State.finishCell_count (s : State) : s.finishCell.count = s.count := by
  rw [State.finishCell_frame]; rfl
@[simp] theorem State.finishCell_space (s : State) : s.finishCell.space = s.space := by
  rw [State.finishCell_frame]; rfl
@[simp] theorem State.finishCell_constructed (s : State) : s.finishCell.constructed = s.constructed := by
  rw [State.finishCell_frame]; rfl
@[simp] theorem State.finishCell_snap (s : State) : s.finishCell.snap = s.snap := by
  rw [State.finishCell_frame]; rfl

@[simp] theorem State.convertTo_count (sp : Space) (s : State) : (s.convertTo sp).count = s.count := by
  rw [State.convertTo_frame]
@[simp] theorem State.convertTo_constructed (sp : Space) (s : State) : (s.convertTo sp).constructed = s.constructed := by
  rw [State.convertTo_frame]
@[simp] theorem State.convertTo_snap (sp : Space) (s : State) : (s.convertTo sp).snap = s.snap := by
  rw [State.convertTo_frame]
@[simp] theorem State.convertTo_curX (sp : Space) (s : State) : (s.convertTo sp).curX = s.curX := by
  rw [State.convertTo_frame]
@[simp] theorem State.convertTo_curY (sp : Space) (s : State) : (s.convertTo sp).curY = s.curY := by
  rw [State.convertTo_frame]
@[simp] theorem State.convertTo_trav (sp : Space) (s : State) : (s.convertTo sp).trav = s.trav := by
  rw [State.convertTo_frame]

theorem commandEffect_count {i : Instr} (hi : ∀ a b, i ≠ .checkadj a b) (s : State) :
    (commandEffect i s).count = s.count := by
  cases i with
  | checkadj a b => exact absurd rfl (hi a b)
  | _ => simp [commandEffect]

theorem commandEffect_space {i : Instr} (hi : ∀ sp, i ≠ .construct sp) (hi' : ∀ sp, i ≠ .convert sp) (s : State) :
    (commandEffect i s).space = s.space := by
  cases i with
  | construct sp => exact absurd rfl (hi sp)
  | convert sp => exact absurd rfl (hi' sp)
  | _ => simp [commandEffect]

theorem commandEffect_constructed {i : Instr} (hi : ∀ sp, i ≠ .construct sp) (s : State) :
    (commandEffect i s).constructed = s.constructed := by
  cases i with
  | construct sp => exact absurd rfl (hi sp)
  | _ => simp [commandEffect]

theorem commandEffect_snap {i : Instr} (hi : ∀ a b, i ≠ .erode a b) (hi' : ∀ a, i ≠ .dilate a) (s : State) :
    (commandEffect i s).snap = s.snap := by
  cases i with
  | erode a b => exact absurd rfl (hi a b)
  | dilate a => exact absurd rfl (hi' a)
  | _ => simp [commandEffect]

/-- A traversal command's effect is the traversal of its mode, KERNEL field and border. -/
theorem commandEffect_of_traversalOf {i : Instr} {md : TravMode} {k : Byte} {b : Nat}
    (h : traversalOf i = some (md, k, b)) (s : State) : commandEffect i s = s.traverseField md k b := by
  cases i <;> simp [traversalOf] at h <;> obtain ⟨rfl, rfl, rfl⟩ := h <;> rfl

/-- Only the HOST kernel's commands write the cursor and the traversal state. -/
theorem commandEffect_cursor {i : Instr} (hi : ∀ md b, traversalOf i ≠ some (md, 0x00#8, b)) (hi' : i ≠ .hostDone)
    (s : State) :
    (commandEffect i s).curX = s.curX ∧ (commandEffect i s).curY = s.curY ∧ (commandEffect i s).trav = s.trav := by
  cases ht : traversalOf i with
  | some m =>
    obtain ⟨md, k, b⟩ := m
    have hk : k ≠ 0x00#8 := fun hk => hi md b (hk ▸ ht)
    rw [commandEffect_of_traversalOf ht, State.traverseField_of_ne_host hk]
    exact ⟨rfl, rfl, rfl⟩
  | none =>
    cases i with
    | hostDone => exact absurd rfl hi'
    | foreach k => cases ht
    | foreachIdx k b => cases ht
    | foreachBor k b => cases ht
    | convert sp => simp [commandEffect]
    | _ => exact ⟨rfl, rfl, rfl⟩

/-! ### The obligations on commands -/

/-- Settles O50: only a raised fault can set FAULT, since no effect writes it. -/
theorem faultingCommandHasNoOtherEffect : Obligations.FaultingCommandHasNoOtherEffect := by
  intro i s t hf h ht
  rcases exec_cases h with ⟨e, -, rfl⟩ | ⟨-, rfl⟩
  · rw [State.raise_of_not_fault hf]
  · have hkept : (commandEffect i s).fault = s.fault := by rw [commandEffect_frame]; rfl
    rw [hkept, hf] at ht
    cases ht

/-- Settles O51: neither a raised fault nor an effect writes any of these fields. -/
theorem noCommandWritesTheHostsRegisters : Obligations.NoCommandWritesTheHostsRegisters := by
  intro i s t h
  rcases exec_cases h with ⟨e, -, rfl⟩ | ⟨-, rfl⟩
  · exact ⟨rfl, rfl, rfl, rfl, rfl, rfl, rfl⟩
  · rw [commandEffect_frame]
    exact ⟨rfl, rfl, rfl, rfl, rfl, rfl, rfl⟩

/-- Settles O52: a raised fault writes none of these fields, and each effect only those of its own command. -/
theorem registersChangeOnlyThroughTheirWriters : Obligations.RegistersChangeOnlyThroughTheirWriters := by
  intro i s t h
  rcases exec_cases h with ⟨e, -, rfl⟩ | ⟨-, rfl⟩
  · exact ⟨fun _ => rfl, fun _ _ => rfl, fun _ _ => ⟨rfl, rfl, rfl⟩, fun _ => rfl, fun _ _ => rfl⟩
  · exact ⟨fun hi => commandEffect_count hi s, fun hi hi' => commandEffect_space hi hi' s,
      fun hi hi' => commandEffect_cursor hi hi' s, fun hi => commandEffect_constructed hi s,
      fun hi hi' => commandEffect_snap hi hi' s⟩

/-- A well-formed command's KERNEL field names a kernel. -/
theorem kernelCheck_of_defined {k : Byte} (h : kernelDefined k = true) :
    kernelCheck k = (false, .illegalCommand) := by
  have hk : k.toNat ≤ 2 := of_decide_eq_true h
  have : k = 0x00#8 ∨ k = 0x01#8 ∨ k = 0x02#8 := by
    simp only [← BitVec.toNat_inj, BitVec.toNat_ofNat]
    omega
  rcases this with rfl | rfl | rfl <;> rfl

/-- With no image and no traversal, NOT_CONSTRUCTED is the first check that an image command fails. -/
theorem commandChecks_of_no_image {i : Instr} {s : State} (hwf : i.wellFormed = true) (hi : needsImage i = true)
    (ha : s.trav.active = false) (hc : s.constructed = false) (k : State) :
    guarded (commandChecks i s) s k = s.raise .notConstructed := by
  cases i with
  | foreach k => simp [commandChecks, kernelCheck_of_defined hwf, State.busyCheck, State.imageCheck, ha, hc]
  | foreachIdx k b => simp [commandChecks, kernelCheck_of_defined hwf, State.busyCheck, State.imageCheck, ha, hc]
  | foreachBor k b => simp [commandChecks, kernelCheck_of_defined hwf, State.busyCheck, State.imageCheck, ha, hc]
  | nop | unpack | pack | rgb2hsv | hsv2rgb | construct _ | hostDone => cases hi
  | _ => simp [commandChecks, State.busyCheck, State.borrowCheck, State.imageCheck, ha, hc]

/-- Settles O49. -/
theorem imageCommandsNeedAnImage : Obligations.ImageCommandsNeedAnImage := by
  intro i s hwf hi ha hc
  have hne : i ≠ .hostDone := by rintro rfl; cases hi
  rw [exec_of_ne_hostDone hne, commandChecks_of_no_image hwf hi ha hc]

end Sys2Proof.Machine
end

section
/-! What one host access can do, faulted or not. -/

namespace Sys2Proof.Machine

theorem deliver_read (off : BitVec 8) (s : State) :
    deliver (.read off) s = .next { s with readData := some (s.hostRead off) } := rfl

theorem deliver_write (off : BitVec 8) (v : Word) (s : State) : deliver (.write off v) s = hostWrite off v s := rfl

theorem deliver_reset (s : State) : deliver .reset s = .next s.resetDevice := rfl

theorem hostWrite_of_fault {s : State} (h : s.fault = true) (off : BitVec 8) (v : Word) : hostWrite off v s = .next s := by
  simp [hostWrite, h]

theorem hostWrite_cmd {s : State} (h : s.fault = false) (w : Word) : hostWrite (Reg.offset .cmd) w s = issue w s := by
  simp [hostWrite, h]

/-- A read reads the device, not the accesses still pending. -/
theorem State.hostRead_withBus (s : State) (bus : List HostEvent) (off : BitVec 8) :
    State.hostRead { s with bus := bus } off = s.hostRead off := rfl

/-- The checks of a host write to register `r`, in the order of 60_exceptions.md R228. -/
def writeChecks (r : Reg) (v : Word) (s : State) : List (Bool × ErrCode) :=
  [(r.isDimension && s.constructed, .dimLocked), (r.isChannel && decide (0xFF < v.toNat), .channelRange),
   (r.isHalf && decide (0xFFFF < v.toNat), .regRange)]

/-- All a host write of a register can do (40_host_interface.md R102), told apart by the offset alone. -/
theorem State.writeRegister_cases (off : BitVec 8) (v : Word) :
    (∀ s, State.writeRegister off v s = s.raise .badRegister) ∨
      ∃ r, ∀ s, State.writeRegister off v s = guarded (writeChecks r v s) s (s.setReg r v) := by
  unfold State.writeRegister
  cases (Reg.atOffset off).filter Reg.hostWritable with
  | none => exact .inl fun _ => rfl
  | some r => exact .inr ⟨r, fun _ => rfl⟩

/-- All a host write of a register can do to one state: raise a fault, or store, the dimensions only while not locked. -/
theorem State.writeRegister_raise_or_setReg (off : BitVec 8) (v : Word) (s : State) :
    (∃ e, e ≠ .none ∧ s.writeRegister off v = s.raise e) ∨
      ∃ r, (r.isDimension && s.constructed) = false ∧ s.writeRegister off v = s.setReg r v := by
  rcases State.writeRegister_cases off v with hw | ⟨r, hw⟩
  · exact .inl ⟨_, by simp, hw s⟩
  · rw [hw s]
    rcases guarded_cases (writeChecks r v s) s (s.setReg r v) with ⟨hall, he⟩ | ⟨pre, e, post, hcs, -, he⟩
    · exact .inr ⟨r, hall (r.isDimension && s.constructed, .dimLocked) (by simp [writeChecks]), he⟩
    · have hmem : (true, e) ∈ writeChecks r v s := by simp [hcs]
      have hne : ∀ c ∈ writeChecks r v s, c.2 ≠ .none := by simp [writeChecks]
      exact .inl ⟨e, hne _ hmem, he⟩

/-- What a command leaves of a constructed image. -/
theorem exec_keeps_image {i : Instr} {s t : State} (hc : s.constructed = true) (h : exec i s = .next t) :
    t.constructed = true ∧ t.width = s.width ∧ t.height = s.height := by
  obtain ⟨-, -, hw, hh, -, -, -⟩ := noCommandWritesTheHostsRegisters i s t h
  refine ⟨?_, hw, hh⟩
  rcases exec_cases h with ⟨e, -, rfl⟩ | ⟨-, rfl⟩
  · exact hc
  · by_cases hi : ∃ sp, i = .construct sp
    · obtain ⟨sp, rfl⟩ := hi
      rfl
    · rw [commandEffect_constructed (fun sp hsp => hi ⟨sp, hsp⟩), hc]

theorem State.setReg_keeps_image {r : Reg} {s : State} (hc : s.constructed = true)
    (hr : (r.isDimension && s.constructed) = false) (v : Word) :
    (s.setReg r v).constructed = true ∧ (s.setReg r v).width = s.width ∧ (s.setReg r v).height = s.height := by
  rw [hc, Bool.and_true] at hr
  cases r with
  | width | height => cases hr
  | _ => exact ⟨hc, rfl, rfl⟩

theorem hostWrite_keeps_image {off : BitVec 8} {v : Word} {s t : State} (hc : s.constructed = true)
    (h : hostWrite off v s = .next t) : t.constructed = true ∧ t.width = s.width ∧ t.height = s.height := by
  rcases hostWrite_cases off v s with ⟨-, hw⟩ | ⟨-, -, hw⟩ | ⟨-, -, hw⟩ <;> rw [hw] at h
  · cases h
    exact ⟨hc, rfl, rfl⟩
  · cases hd : decode v with
    | error e =>
      rw [issue_of_illegal hd] at h
      cases h
      exact ⟨hc, rfl, rfl⟩
    | ok i =>
      rw [issue_of_decode hd] at h
      exact exec_keeps_image hc h
  · cases h
    rcases s.writeRegister_raise_or_setReg off v with ⟨e, -, he⟩ | ⟨r, hr, he⟩ <;> rw [he]
    · exact ⟨hc, rfl, rfl⟩
    · exact State.setReg_keeps_image hc hr v

/-! ### The obligations on steps -/

/-- Settles O6. -/
theorem stepRunsTheDecodedCommand : Obligations.StepRunsTheDecodedCommand := by
  intro s w rest hf hb
  have hstep : step s = issue w { s with bus := rest } := by
    rw [step_of_bus hb, deliver_write]
    exact hostWrite_cmd (s := { s with bus := rest }) hf w
  exact ⟨fun i hi => by rw [hstep, issue_of_decode hi], fun e he => by rw [hstep, issue_of_illegal he]⟩

/-- Settles O16. -/
theorem idleDeviceHoldsItsState : Obligations.IdleDeviceHoldsItsState := fun _ hb => step_of_idle hb

/-- A write to a faulted device only leaves the bus (10_state.md R31). -/
theorem step_write_of_fault {s : State} (hf : s.fault = true) {off : BitVec 8} {v : Word} {rest : List HostEvent}
    (hb : s.bus = .write off v :: rest) : step s = .next { s with bus := rest } := by
  rw [step_of_bus hb, deliver_write]
  exact hostWrite_of_fault (s := { s with bus := rest }) hf off v

/-- A read leaves the bus and its value is kept, in any state. -/
theorem step_read {s : State} {off : BitVec 8} {rest : List HostEvent} (hb : s.bus = .read off :: rest) :
    step s = .next { s with bus := rest, readData := some (s.hostRead off) } := by
  rw [step_of_bus hb, deliver_read, State.hostRead_withBus]

theorem step_reset {s : State} {rest : List HostEvent} (hb : s.bus = .reset :: rest) :
    step s = .next (State.resetDevice { s with bus := rest }) := by
  rw [step_of_bus hb, deliver_reset]

/-- Settles O13. -/
theorem faultedDeviceIgnoresWrites : Obligations.FaultedDeviceIgnoresWrites :=
  ⟨fun s e => s.raise_fault e, fun _ hf =>
    ⟨fun _ _ _ hb => step_write_of_fault hf hb, fun _ _ hb => step_read hb, fun e => State.raise_of_fault hf e,
      fun hb => step_of_idle hb, fun _ hb => ⟨_, step_reset hb, rfl⟩⟩⟩

/-- Settles O54: the next access is none, a read or a write; a reset is excluded. -/
theorem faultLastsUntilReset : Obligations.FaultLastsUntilReset := by
  intro s t hf hr h
  cases hb : s.bus with
  | nil =>
    rw [step_of_idle hb] at h
    cases h
    exact ⟨by rw [List.tail_nil, ← hb], by simp, fun _ => rfl⟩
  | cons e rest =>
    cases e with
    | read off =>
      rw [step_read hb] at h
      cases h
      exact ⟨rfl, by simp, fun hno => absurd rfl (hno off)⟩
    | write off v =>
      rw [step_write_of_fault hf hb] at h
      cases h
      exact ⟨rfl, by simp, fun _ => rfl⟩
    | reset => simp [hb] at hr

/-- Settles O53. -/
theorem imageLastsUntilReset : Obligations.ImageLastsUntilReset := by
  intro s t hc hr h
  cases hb : s.bus with
  | nil =>
    rw [step_of_idle hb] at h
    cases h
    exact ⟨hc, rfl, rfl⟩
  | cons e rest =>
    cases e with
    | read off =>
      rw [step_read hb] at h
      cases h
      exact ⟨hc, rfl, rfl⟩
    | write off v =>
      rw [step_of_bus hb, deliver_write] at h
      exact hostWrite_keeps_image (s := { s with bus := rest }) hc h
    | reset => simp [hb] at hr

end Sys2Proof.Machine
end

section
/-! The machine invariant, kept by every step: by a raised fault, by each effect, by a host write, by the reset event. -/

namespace Sys2Proof.Machine

/-! ### Updates that keep the invariant -/

/-- The state with every field at 0 that the invariant says nothing of. -/
def State.invariantPart (s : State) : State :=
  { s with word := 0, chA := 0, chB := 0, chC := 0, chM := 0, x := 0, y := 0, bus := [], readData := none }

theorem inv_invariantPart {s : State} : Inv s.invariantPart ↔ Inv s :=
  ⟨fun h => { h with }, fun h => { h with }⟩

/-- The invariant rests on the fields of `State.invariantPart` alone. -/
theorem Inv.of_invariantPart_eq {s t : State} (h : Inv s) (he : t.invariantPart = s.invariantPart) : Inv t :=
  inv_invariantPart.mp (he ▸ inv_invariantPart.mpr h)

theorem Inv.raise {s : State} (h : Inv s) {e : ErrCode} (he : e ≠ .none) : Inv (s.raise e) :=
  { h with
    fault_code := by
      cases hf : s.fault with
      | false => simp [hf, he]
      | true => simpa [hf] using h.fault_code }

theorem Inv.withStore {s : State} (h : Inv s) {m : Memory} (hwf : m.wf) (hb : ∀ c ∈ m, c.1 < 4 * s.capacity.toNat) :
    Inv { s with store := m } :=
  { h with store_wf := hwf, store_bound := hb }

theorem Inv.withSnap {s : State} (h : Inv s) {m : Memory} (hwf : m.wf) (hb : ∀ c ∈ m, c.1 < s.capacity.toNat) :
    Inv { s with snap := m } :=
  { h with snap_wf := hwf, snap_bound := hb }

/-- The word of a cell of a constructed image lies in the store. -/
theorem Inv.cellIndex_lt_capacity {s : State} (h : Inv s) (hc : s.constructed = true) {p : Coord}
    (hp : s.inImage p = true) : s.cellIndex p < s.capacity.toNat :=
  lt_of_lt_of_le (State.cellIndex_lt_area hp) (h.image_fits hc)

/-- A traversal of cells of the image stays in the store. -/
theorem Inv.mapCells {s : State} (h : Inv s) (hc : s.constructed = true) (f : Coord → Word → Word) {cells : List Coord}
    (hcells : ∀ p ∈ cells, s.inImage p = true) : Inv (s.mapCells f cells) := by
  refine h.withStore (Memory.wf_mapCells f cells h.store_wf) fun c hmem => ?_
  rcases Memory.mem_mapCells hmem with ⟨p, hp, hidx⟩ | hold
  · have hlt : s.cellIndex p < s.capacity.toNat := h.cellIndex_lt_capacity hc (hcells p hp)
    have hidx' : c.1 / 4 = s.cellIndex p := hidx
    omega
  · exact h.store_bound c hold

theorem Inv.mapVisited {s : State} (h : Inv s) (hc : s.constructed = true) (f : Coord → Word → Word) (b : Nat) :
    Inv (s.mapCells f (s.visited b)) :=
  h.mapCells hc f fun _ => State.inImage_of_mem_visited

/-- Writing one cell is the traversal of that cell. -/
theorem Inv.setPix {s : State} (h : Inv s) (hc : s.constructed = true) {p : Coord} (hp : s.inImage p = true) (w : Word) :
    Inv (s.setPix p w) :=
  h.mapCells hc (cells := [p]) (fun _ _ => w) (by simpa using hp)

theorem Inv.takeSnapshot {s : State} (h : Inv s) (hc : s.constructed = true) : Inv s.takeSnapshot := by
  refine h.withSnap (Memory.wf_copyMasks _ _ h.snap_wf) fun c hmem => ?_
  rcases Memory.mem_copyMasks hmem with ⟨p, hp, hidx⟩ | hold
  · exact hidx ▸ h.cellIndex_lt_capacity hc (State.inImage_of_mem_visited hp)
  · exact h.snap_bound c hold

/-- A new image of zeros that fits the store; no traversal is suspended before CONSTRUCT. -/
theorem Inv.construct {s : State} (h : Inv s) (ha : s.trav.active = false) (hfit : s.area ≤ s.capacity.toNat)
    (sp : Space) : Inv { s with store := s.store.zeroWords s.area, constructed := true, space := sp } :=
  { h with
    store_wf := Memory.wf_zeroWords h.store_wf _
    store_bound := fun c hc => h.store_bound c (Memory.mem_zeroWords hc)
    space_rgb := fun hc => by cases hc
    image_fits := fun _ => hfit
    suspended := fun ha' => by rw [ha] at ha'; cases ha' }

theorem Inv.withSpace {s : State} (h : Inv s) (hc : s.constructed = true) (sp : Space) : Inv { s with space := sp } :=
  { h with space_rgb := fun hc' => by rw [hc] at hc'; cases hc' }

theorem Inv.withCount {s : State} (h : Inv s) {n : Nat} (hn : n ≤ 9) : Inv { s with count := BitVec.ofNat 4 n } :=
  { h with
    count_le := by
      rw [BitVec.toNat_ofNat]
      omega }

/-- WIDTH and HEIGHT are free while no image exists. -/
theorem Inv.resize {s : State} (h : Inv s) (hc : s.constructed = false) (w l : Half) :
    Inv { s with width := w, height := l } :=
  { h with
    image_fits := fun hc' => by rw [hc] at hc'; cases hc'
    suspended := fun ha => by
      have hc' := (h.suspended ha).1
      rw [hc] at hc'
      cases hc' }

theorem Inv.endTraversal {s : State} (h : Inv s) : Inv s.endTraversal :=
  { h with
    idle := fun _ => rfl
    suspended := fun ha => by cases ha
    at_cell := fun ha => by cases ha }

/-- Presenting the current cell of a traversal over a visited set. -/
theorem Inv.present {s : State} (h : Inv s) (hc : s.constructed = true) {T : Trav} {b : Half} {p : Coord}
    (ha : T.active = true) (hcells : T.cells = s.visited b.toNat) (hmode : T.mode = .foreach → b = 0)
    (hp : T.cells[T.index]? = some p) : Inv (State.present p { s with trav := T }) :=
  { h with
    idle := fun ha' => by
      have ha'' : T.active = false := ha'
      rw [ha] at ha''
      cases ha''
    suspended := fun _ => ⟨hc, b, hcells, hmode⟩
    at_cell := fun _ => by
      have hvis := State.mem_visited.mp (hcells ▸ List.mem_of_getElem? hp)
      have hw := s.width.isLt
      have hh := s.height.isLt
      refine ⟨p, hp, ?_, ?_⟩
      · rw [State.present_curX, BitVec.toNat_ofNat]
        omega
      · rw [State.present_curY, BitVec.toNat_ofNat]
        omega }

/-! ### The effects keep it -/

theorem Inv.traverse {s : State} (h : Inv s) (hc : s.constructed = true) {md : TravMode} {b : Half}
    (hmode : md = .foreach → b = 0) (k : Byte) : Inv (s.traverseField md k b.toNat) := by
  unfold State.traverseField
  cases Kernel.ofField k with
  | none => exact h
  | some k =>
    cases k with
    | kRgb2hsv => exact h.mapVisited hc _ _
    | kHsv2rgb => exact h.mapVisited hc _ _
    | host =>
      change Inv (s.traverseHost md b.toNat)
      cases hv : s.visited b.toNat with
      | nil => rw [State.traverseHost_of_nil hv]; exact h
      | cons p ps =>
        rw [State.traverseHost_of_cons hv]
        exact h.present hc rfl hv.symm hmode rfl

theorem Inv.finishCell {s : State} (h : Inv s) (ha : s.trav.active = true) : Inv s.finishCell := by
  obtain ⟨p, hp, -, -⟩ := h.at_cell ha
  obtain ⟨hc, b, hcells, hmode⟩ := h.suspended ha
  have hin : s.inImage p = true := State.inImage_of_mem_visited (hcells ▸ List.mem_of_getElem? hp)
  have hset : Inv (s.setPix p (pack s.channels)) := h.setPix hc hin _
  unfold State.finishCell
  rw [hp]
  cases hq : s.trav.cells[s.trav.index + 1]? with
  | none => exact hset.endTraversal
  | some q => exact hset.present hc (T := { s.trav with index := s.trav.index + 1 }) ha hcells hmode hq

/-- A command that passes its checks and needs an image has one. -/
theorem constructed_of_passesChecks {i : Instr} {s : State} (hi : needsImage i = true) (h : passesChecks i s) :
    s.constructed = true := by
  have hmem : s.imageCheck ∈ commandChecks i s := by
    cases i with
    | nop | unpack | pack | rgb2hsv | hsv2rgb | construct _ | hostDone => cases hi
    | _ => simp [commandChecks]
  simpa [State.imageCheck] using h _ hmem

theorem active_of_passesChecks_hostDone {s : State} (h : passesChecks .hostDone s) : s.trav.active = true := by
  simpa [passesChecks, commandChecks] using h

theorem passesChecks_construct {sp : Space} {s : State} (h : passesChecks (.construct sp) s) :
    s.trav.active = false ∧ s.constructed = false ∧ s.area ≤ s.capacity.toNat := by
  simpa [passesChecks, commandChecks, State.busyCheck] using h

/-- A command that checks that (X, Y) lies in the image runs only where it does. -/
theorem inImage_of_passesChecks {i : Instr} {s : State} (hi : s.inImageCheck s.coord ∈ commandChecks i s)
    (h : passesChecks i s) : s.inImage s.coord = true := by
  simpa [State.inImageCheck] using h _ hi

theorem Inv.effect {i : Instr} {s : State} (h : Inv s) (hpass : passesChecks i s) : Inv (commandEffect i s) := by
  have himage : needsImage i = true → s.constructed = true := fun hi => constructed_of_passesChecks hi hpass
  cases i with
  | nop => exact h
  | unpack | pack | rgb2hsv | hsv2rgb | get | access => exact h.of_invariantPart_eq rfl
  | construct sp =>
    obtain ⟨ha, -, hfit⟩ := passesChecks_construct hpass
    exact h.construct ha hfit sp
  | set => exact h.setPix (himage rfl) (inImage_of_passesChecks (by simp [commandChecks]) hpass) _
  | foreach k => exact h.traverse (himage rfl) (b := 0) (fun _ => rfl) k
  | foreachIdx k b => exact h.traverse (himage rfl) (fun hm => by cases hm) k
  | foreachBor k b => exact h.traverse (himage rfl) (fun hm => by cases hm) k
  | convert sp =>
    change Inv (s.convertTo sp)
    by_cases hsp : s.space = sp
    · rw [State.convertTo_of_eq hsp]
      exact h
    · rw [State.convertTo_of_ne hsp]
      exact (h.mapVisited (himage rfl) _ 0).withSpace (himage rfl) sp
  | hostDone => exact h.finishCell (active_of_passesChecks_hostDone hpass)
  | checkadj t u => exact h.withCount (neighbourCount_le _ _ _ _)
  | erode t d =>
    have hsnap : Inv s.takeSnapshot := h.takeSnapshot (himage rfl)
    exact (hsnap.mapVisited (himage rfl) _ 1).mapVisited (himage rfl) _ 0
  | dilate t =>
    have hsnap : Inv s.takeSnapshot := h.takeSnapshot (himage rfl)
    exact (hsnap.mapVisited (himage rfl) _ 1).mapVisited (himage rfl) _ 0

/-! ### From commands up to a step -/

theorem Inv.exec {i : Instr} {s t : State} (h : Inv s) (he : exec i s = .next t) : Inv t := by
  rcases exec_cases he with ⟨e, hne, rfl⟩ | ⟨hpass, rfl⟩
  · exact h.raise hne
  · exact h.effect hpass

theorem Inv.issue {w : Word} {s t : State} (h : Inv s) (hi : issue w s = .next t) : Inv t := by
  cases hd : decode w with
  | error e =>
    rw [issue_of_illegal hd] at hi
    cases hi
    exact h.raise (by simp)
  | ok i =>
    rw [issue_of_decode hd] at hi
    exact h.exec hi

theorem Inv.setReg {s : State} (h : Inv s) {r : Reg} (hr : (r.isDimension && s.constructed) = false) (v : Word) :
    Inv (s.setReg r v) := by
  cases r with
  | width => exact h.resize hr (v.setWidth 16) s.height
  | height => exact h.resize hr s.width (v.setWidth 16)
  | _ => exact h.of_invariantPart_eq rfl

theorem Inv.hostWrite {off : BitVec 8} {v : Word} {s t : State} (h : Inv s) (hw : hostWrite off v s = .next t) :
    Inv t := by
  rcases hostWrite_cases off v s with ⟨-, he⟩ | ⟨-, -, he⟩ | ⟨-, -, he⟩ <;> rw [he] at hw
  · cases hw
    exact h
  · exact h.issue hw
  · cases hw
    rcases s.writeRegister_raise_or_setReg off v with ⟨e, hne, he⟩ | ⟨r, hr, he⟩ <;> rw [he]
    · exact h.raise hne
    · exact h.setReg hr v

/-- The reset event leads to a state of the invariant from any state. -/
theorem inv_resetDevice (s : State) : Inv s.resetDevice where
  store_wf := Memory.wf_nil
  snap_wf := Memory.wf_nil
  store_bound := fun c hc => by cases hc
  snap_bound := fun c hc => by cases hc
  fault_code := by simp [State.reset]
  space_rgb := fun _ => rfl
  image_fits := fun hc => by cases hc
  idle := fun _ => rfl
  suspended := fun ha => by cases ha
  at_cell := fun ha => by cases ha
  count_le := by simp [State.reset]

/-- Settles O55: an idle step keeps the state; a read writes the host's own field; a write and the reset event keep the
invariant. -/
theorem everyStepKeepsTheInvariant : Obligations.EveryStepKeepsTheInvariant := by
  intro s t h hstep
  cases hb : s.bus with
  | nil =>
    rw [step_of_idle hb] at hstep
    cases hstep
    exact h
  | cons e rest =>
    rw [step_of_bus hb] at hstep
    have hrest : Inv { s with bus := rest } := h.withBus rest
    cases e with
    | read off =>
      cases hstep
      exact hrest.of_invariantPart_eq rfl
    | write off v => exact hrest.hostWrite hstep
    | reset =>
      cases hstep
      exact inv_resetDevice _

end Sys2Proof.Machine
end

section
/-! Storage the spec leaves unspecified is unobservable: two machines that differ only there make the same checks, read the
same words and Masks of the image, and so take every step alike. -/

namespace Sys2Proof.Machine

/-! ### What two such machines share -/

theorem SameObservable.refl (s : State) : SameObservable s s := ⟨rfl, fun _ _ _ => rfl⟩

/-- The second machine is the first with another store and another snapshot buffer, the image's words alike. -/
theorem sameObservable_iff {s t : State} :
    SameObservable s t ↔ ∃ m n, t = { s with store := m, snap := n } ∧
      (s.constructed = true → ∀ i < s.area, m.readWord i = s.store.readWord i) :=
  ⟨fun h => ⟨t.store, t.snap, h.rest, h.image⟩, fun ⟨m, n, ht, h⟩ => by subst ht; exact ⟨rfl, h⟩⟩

theorem SameObservable.readData {s t : State} (h : SameObservable s t) : s.readData = t.readData := by rw [h.rest]

theorem SameObservable.statusWord {s t : State} (h : SameObservable s t) : s.statusWord = t.statusWord := by
  rw [h.rest]
  rfl

theorem SameObservable.hostRead {s t : State} (h : SameObservable s t) (off : BitVec 8) :
    s.hostRead off = t.hostRead off := by
  rw [h.rest]
  unfold State.hostRead
  cases Reg.atOffset off with
  | none => rfl
  | some r => cases r <;> rfl

theorem SameObservable.checks {s t : State} (h : SameObservable s t) (i : Instr) :
    commandChecks i t = commandChecks i s := by
  rw [h.rest]
  cases i <;> rfl

theorem SameObservable.visited {s t : State} (h : SameObservable s t) (b : Nat) : t.visited b = s.visited b := by
  rw [h.rest]
  rfl

theorem SameObservable.coord {s t : State} (h : SameObservable s t) : t.coord = s.coord := by
  rw [h.rest]
  rfl

/-- A cell of the image holds the same word in both. -/
theorem SameObservable.pix {s t : State} (h : SameObservable s t) (hc : s.constructed = true) {p : Coord}
    (hp : s.inImage p = true) : t.pix p = s.pix p := by
  have hidx : t.cellIndex p = s.cellIndex p := by rw [h.rest]; rfl
  unfold State.pix
  rw [hidx]
  exact h.image hc _ (State.cellIndex_lt_area hp)

theorem SameObservable.liveMask {s t : State} (h : SameObservable s t) (hc : s.constructed = true) {p : Coord}
    (hp : s.inImage p = true) : t.liveMask p = s.liveMask p :=
  congrArg maskOf (h.pix hc hp)

/-- So does the snapshot, once taken: every Mask it is read at has just been copied (45_morphology.md R206). -/
theorem SameObservable.snapMask {s t : State} (h : SameObservable s t) (hc : s.constructed = true) {p : Coord}
    (hp : s.inImage p = true) : t.takeSnapshot.snapMask p = s.takeSnapshot.snapMask p := by
  have hp' : t.inImage p = true := by rw [h.rest]; exact hp
  rw [State.snapMask_takeSnapshot hp, State.snapMask_takeSnapshot hp', h.liveMask hc hp]

/-! ### Updates that keep two machines alike -/

theorem SameObservable.raise {s t : State} (h : SameObservable s t) (e : ErrCode) :
    SameObservable (s.raise e) (t.raise e) := by
  obtain ⟨m, n, rfl, himage⟩ := sameObservable_iff.mp h
  exact ⟨rfl, himage⟩

/-- Checks alike raise alike, or pass alike. -/
theorem SameObservable.guarded {s t k l : State} (h : SameObservable s t) {cs : List (Bool × ErrCode)}
    (hk : (∀ c ∈ cs, c.1 = false) → SameObservable k l) : SameObservable (guarded cs s k) (guarded cs t l) := by
  induction cs with
  | nil => exact hk (by simp)
  | cons c cs ih =>
    obtain ⟨bad, e⟩ := c
    cases bad with
    | true => exact h.raise e
    | false => exact ih fun hall => hk (by simpa using hall)

/-- Two traversals of cells of the image that compute the same words. -/
theorem SameObservable.mapCells {s t : State} (h : SameObservable s t) {f g : Coord → Word → Word} {cells : List Coord}
    (hcells : ∀ p ∈ cells, s.inImage p = true) (hfg : ∀ p ∈ cells, ∀ w, g p w = f p w) :
    SameObservable (s.mapCells f cells) (t.mapCells g cells) := by
  obtain ⟨m, n, rfl, himage⟩ := sameObservable_iff.mp h
  exact ⟨rfl, fun hc => Memory.readWord_mapCells_congr (fun p hp => State.cellIndex_lt_area (hcells p hp)) hfg (himage hc)⟩

theorem SameObservable.mapVisited {s t : State} (h : SameObservable s t) {f g : Coord → Word → Word} {b : Nat}
    (hfg : ∀ p ∈ s.visited b, ∀ w, g p w = f p w) :
    SameObservable (s.mapCells f (s.visited b)) (t.mapCells g (t.visited b)) := by
  rw [h.visited]
  exact h.mapCells (fun _ => State.inImage_of_mem_visited) hfg

/-- Writing one cell is the traversal of that cell. -/
theorem SameObservable.setPix {s t : State} (h : SameObservable s t) {p : Coord} (hp : s.inImage p = true) (w : Word) :
    SameObservable (s.setPix p w) (t.setPix p w) :=
  h.mapCells (f := fun _ _ => w) (g := fun _ _ => w) (cells := [p]) (by simpa using hp) (fun _ _ _ => rfl)

theorem SameObservable.takeSnapshot {s t : State} (h : SameObservable s t) :
    SameObservable s.takeSnapshot t.takeSnapshot := by
  obtain ⟨m, n, rfl, himage⟩ := sameObservable_iff.mp h
  exact ⟨rfl, himage⟩

theorem SameObservable.withTrav {s t : State} (h : SameObservable s t) (T : Trav) :
    SameObservable { s with trav := T } { t with trav := T } := by
  obtain ⟨m, n, rfl, himage⟩ := sameObservable_iff.mp h
  exact ⟨rfl, himage⟩

theorem SameObservable.withSpace {s t : State} (h : SameObservable s t) (sp : Space) :
    SameObservable { s with space := sp } { t with space := sp } := by
  obtain ⟨m, n, rfl, himage⟩ := sameObservable_iff.mp h
  exact ⟨rfl, himage⟩

theorem SameObservable.withWord {s t : State} (h : SameObservable s t) (w : Word) :
    SameObservable { s with word := w } { t with word := w } := by
  obtain ⟨m, n, rfl, himage⟩ := sameObservable_iff.mp h
  exact ⟨rfl, himage⟩

theorem SameObservable.withCount {s t : State} (h : SameObservable s t) (c : BitVec 4) :
    SameObservable { s with count := c } { t with count := c } := by
  obtain ⟨m, n, rfl, himage⟩ := sameObservable_iff.mp h
  exact ⟨rfl, himage⟩

theorem SameObservable.setColour {s t : State} (h : SameObservable s t) (c : Byte × Byte × Byte) :
    SameObservable (s.setColour c) (t.setColour c) := by
  obtain ⟨m, n, rfl, himage⟩ := sameObservable_iff.mp h
  exact ⟨rfl, himage⟩

theorem SameObservable.present {s t : State} (h : SameObservable s t) (hc : s.constructed = true) {p : Coord}
    (hp : s.inImage p = true) : SameObservable (s.present p) (t.present p) := by
  have hpix : t.pix p = s.pix p := h.pix hc hp
  unfold State.present
  rw [hpix]
  obtain ⟨m, n, rfl, himage⟩ := sameObservable_iff.mp h
  exact ⟨rfl, himage⟩

/-- CONSTRUCT makes every word of the new image 0, whatever the store held. -/
theorem SameObservable.construct {s t : State} (h : SameObservable s t) (sp : Space) :
    SameObservable (commandEffect (.construct sp) s) (commandEffect (.construct sp) t) := by
  obtain ⟨m, n, rfl, -⟩ := sameObservable_iff.mp h
  exact ⟨rfl, fun _ _ hi =>
    (Memory.readWord_zeroWords_of_lt m hi).trans (Memory.readWord_zeroWords_of_lt s.store hi).symm⟩

/-! ### Traversals, HOST_DONE and morphology -/

theorem SameObservable.traverseHost {s t : State} (h : SameObservable s t) (hc : s.constructed = true) (md : TravMode)
    (b : Nat) : SameObservable (s.traverseHost md b) (t.traverseHost md b) := by
  have hvis : t.visited b = s.visited b := h.visited b
  cases hv : s.visited b with
  | nil =>
    rw [State.traverseHost_of_nil hv, State.traverseHost_of_nil (hvis.trans hv)]
    exact h
  | cons p ps =>
    have hp : s.inImage p = true := State.inImage_of_mem_visited (b := b) (by simp [hv])
    rw [State.traverseHost_of_cons hv, State.traverseHost_of_cons (hvis.trans hv)]
    exact (h.withTrav ⟨true, md, p :: ps, 0⟩).present hc hp

theorem SameObservable.traverseField {s t : State} (h : SameObservable s t) (hc : s.constructed = true) (md : TravMode)
    (k : Byte) (b : Nat) : SameObservable (s.traverseField md k b) (t.traverseField md k b) := by
  unfold State.traverseField
  cases Kernel.ofField k with
  | none => exact h
  | some k =>
    cases k with
    | host => exact h.traverseHost hc md b
    | kRgb2hsv => exact h.mapVisited fun _ _ _ => rfl
    | kHsv2rgb => exact h.mapVisited fun _ _ _ => rfl

theorem SameObservable.convertTo {s t : State} (h : SameObservable s t) (sp : Space) :
    SameObservable (s.convertTo sp) (t.convertTo sp) := by
  have hspace : t.space = s.space := by rw [h.rest]
  by_cases hs : s.space = sp
  · rw [State.convertTo_of_eq hs, State.convertTo_of_eq (hspace.trans hs)]
    exact h
  · rw [State.convertTo_of_ne hs, State.convertTo_of_ne (hspace ▸ hs)]
    exact SameObservable.withSpace (h.mapVisited fun _ _ _ => rfl) sp

/-- The neighbour counts over the two snapshots agree at interior cells. -/
theorem SameObservable.snapCount {s t : State} (h : SameObservable s t) (hc : s.constructed = true) {p : Coord}
    (hp : p ∈ s.visited 1) (a b : Byte) :
    neighbourCount t.takeSnapshot.snapMask p a b = neighbourCount s.takeSnapshot.snapMask p a b :=
  neighbourCount_congr
    (fun _ hq => h.snapMask hc (State.inImage_of_mem_neighbourhood (State.mem_visited_one.mp hp) hq)) a b

theorem SameObservable.erodeMark {s t : State} (h : SameObservable s t) (hc : s.constructed = true) (a : Byte) :
    SameObservable (s.takeSnapshot.erodeMark a) (t.takeSnapshot.erodeMark a) :=
  h.takeSnapshot.mapVisited fun p hp w => by
    rw [h.snapCount hc (p := p) hp]

theorem SameObservable.dilateMark {s t : State} (h : SameObservable s t) (hc : s.constructed = true) (a : Byte) :
    SameObservable (s.takeSnapshot.dilateMark a) (t.takeSnapshot.dilateMark a) :=
  h.takeSnapshot.mapVisited fun p hp w => by
    rw [h.snapCount hc (p := p) hp, h.snapMask hc (State.inImage_of_mem_visited (s := s) hp)]

theorem SameObservable.resolveSentinel {s t : State} (h : SameObservable s t) (v : Byte) :
    SameObservable (s.resolveSentinel v) (t.resolveSentinel v) :=
  h.mapVisited fun _ _ _ => rfl

/-- HOST_DONE checks for itself that the cells it touches are cells of the image, so it needs no invariant. -/
theorem SameObservable.execHostDone {s t s' : State} (h : SameObservable s t) (he : execHostDone s = .next s') :
    ∃ t', execHostDone t = .next t' ∧ SameObservable s' t' := by
  have htrav : t.trav = s.trav := by rw [h.rest]
  have hchannels : t.channels = s.channels := by rw [h.rest]; rfl
  have hdef : ∀ p, t.cellDefined p = s.cellDefined p := fun p => by rw [h.rest]; rfl
  have himage : ∀ {p}, s.cellDefined p = true → s.constructed = true ∧ s.inImage p = true := fun hd => by
    simpa [State.cellDefined] using hd
  rcases execHostDone_cases s with
    ⟨ha, hs⟩ | ⟨-, hs⟩ | ⟨p, ha, hp, hd, hq, hs⟩ | ⟨p, q, ha, hp, hd, hq, hd', hs⟩ <;> rw [hs] at he <;> cases he
  · exact ⟨_, execHostDone_of_idle (htrav ▸ ha), h.raise _⟩
  · obtain ⟨-, hin⟩ := himage hd
    refine ⟨_, execHostDone_of_last (by rw [htrav, ha]) (by rw [htrav, hp]) (by rw [hdef, hd]) (by rw [htrav, hq]), ?_⟩
    rw [hchannels]
    exact (h.setPix hin _).withTrav _
  · obtain ⟨hc, hin⟩ := himage hd
    obtain ⟨-, hin'⟩ := himage hd'
    refine ⟨_, execHostDone_of_more (by rw [htrav, ha]) (by rw [htrav, hp]) (by rw [hdef, hd]) (by rw [htrav, hq])
      (by rw [hdef, hd']), ?_⟩
    rw [hchannels, htrav]
    exact ((h.setPix hin _).withTrav _).present hc hin'

/-! ### From effects up to a step -/

/-- CHECKADJ runs only at interior cells. -/
theorem interior_of_passesChecks_checkadj {a b : Byte} {s : State} (h : passesChecks (.checkadj a b) s) :
    s.interior s.coord = true := by
  have hmem : s.interiorCheck s.coord ∈ commandChecks (.checkadj a b) s := by simp [commandChecks]
  simpa [State.interiorCheck] using h _ hmem

theorem SameObservable.effect {i : Instr} {s t : State} (h : SameObservable s t) (hi : i ≠ .hostDone)
    (hpass : passesChecks i s) : SameObservable (commandEffect i s) (commandEffect i t) := by
  have himage : needsImage i = true → s.constructed = true := fun hn => constructed_of_passesChecks hn hpass
  cases i with
  | hostDone => exact absurd rfl hi
  | nop => exact h
  | unpack | pack | rgb2hsv | hsv2rgb =>
    obtain ⟨m, n, rfl, himage⟩ := sameObservable_iff.mp h
    exact ⟨rfl, himage⟩
  | construct sp => exact h.construct sp
  | get =>
    have hin := inImage_of_passesChecks (by simp [commandChecks]) hpass
    simp only [commandEffect, h.coord, h.pix (himage rfl) hin]
    exact h.withWord _
  | access =>
    have hin := inImage_of_passesChecks (by simp [commandChecks]) hpass
    simp only [commandEffect, h.coord, h.pix (himage rfl) hin]
    exact h.setColour _
  | set =>
    have hin := inImage_of_passesChecks (by simp [commandChecks]) hpass
    have hword : t.word = s.word := by rw [h.rest]
    simp only [commandEffect, h.coord, hword]
    exact h.setPix hin _
  | foreach k => exact h.traverseField (himage rfl) _ k _
  | foreachIdx k b => exact h.traverseField (himage rfl) _ k _
  | foreachBor k b => exact h.traverseField (himage rfl) _ k _
  | convert sp => exact h.convertTo sp
  | checkadj a b =>
    have hint := interior_of_passesChecks_checkadj hpass
    have hcount : neighbourCount t.liveMask s.coord a b = neighbourCount s.liveMask s.coord a b :=
      neighbourCount_congr (fun _ hq => h.liveMask (himage rfl) (State.inImage_of_mem_neighbourhood hint hq)) a b
    simp only [commandEffect, h.coord, hcount]
    exact h.withCount _
  | erode a d => exact (h.erodeMark (himage rfl) a).resolveSentinel d
  | dilate a => exact (h.dilateMark (himage rfl) a).resolveSentinel a

theorem SameObservable.exec {i : Instr} {s t s' : State} (h : SameObservable s t) (he : exec i s = .next s') :
    ∃ t', exec i t = .next t' ∧ SameObservable s' t' := by
  by_cases hi : i = .hostDone
  · subst hi
    exact h.execHostDone he
  · rw [exec_of_ne_hostDone hi] at he ⊢
    cases he
    refine ⟨_, rfl, ?_⟩
    rw [h.checks]
    exact h.guarded fun hall => h.effect hi hall

theorem SameObservable.issue {w : Word} {s t s' : State} (h : SameObservable s t) (he : issue w s = .next s') :
    ∃ t', issue w t = .next t' ∧ SameObservable s' t' := by
  cases hd : decode w with
  | error e =>
    rw [issue_of_illegal hd] at he
    cases he
    exact ⟨_, issue_of_illegal hd t, h.raise _⟩
  | ok i =>
    rw [issue_of_decode hd] at he ⊢
    exact h.exec he

theorem SameObservable.setReg {s t : State} (h : SameObservable s t) {r : Reg}
    (hr : (r.isDimension && s.constructed) = false) (v : Word) : SameObservable (s.setReg r v) (t.setReg r v) := by
  obtain ⟨m, n, rfl, himage⟩ := sameObservable_iff.mp h
  cases r with
  | width | height =>
    have hc : s.constructed = false := hr
    exact ⟨rfl, fun hc' => absurd (hc.symm.trans hc') (by decide)⟩
  | _ => exact ⟨rfl, himage⟩

theorem SameObservable.writeRegister {s t : State} (h : SameObservable s t) (off : BitVec 8) (v : Word) :
    SameObservable (s.writeRegister off v) (t.writeRegister off v) := by
  rcases State.writeRegister_cases off v with hw | ⟨r, hw⟩ <;> rw [hw s, hw t]
  · exact h.raise _
  · have hchecks : writeChecks r v t = writeChecks r v s := by rw [h.rest]; rfl
    rw [hchecks]
    exact h.guarded fun hall => h.setReg (hall (r.isDimension && s.constructed, .dimLocked) (by simp [writeChecks])) v

theorem SameObservable.hostWrite {off : BitVec 8} {v : Word} {s t s' : State} (h : SameObservable s t)
    (he : hostWrite off v s = .next s') : ∃ t', hostWrite off v t = .next t' ∧ SameObservable s' t' := by
  have hfault : t.fault = s.fault := by rw [h.rest]
  unfold Machine.hostWrite at he ⊢
  rw [hfault]
  split_ifs at he ⊢
  · cases he
    exact ⟨t, rfl, h⟩
  · exact h.issue he
  · cases he
    exact ⟨_, rfl, h.writeRegister off v⟩

theorem SameObservable.resetDevice {s t : State} (h : SameObservable s t) :
    SameObservable s.resetDevice t.resetDevice := by
  obtain ⟨m, n, rfl, -⟩ := sameObservable_iff.mp h
  exact SameObservable.refl _

theorem SameObservable.withBus {s t : State} (h : SameObservable s t) (bus : List HostEvent) :
    SameObservable { s with bus := bus } { t with bus := bus } := by
  obtain ⟨m, n, rfl, himage⟩ := sameObservable_iff.mp h
  exact ⟨rfl, himage⟩

theorem SameObservable.withReadData {s t : State} (h : SameObservable s t) (v : Option Word) :
    SameObservable { s with readData := v } { t with readData := v } := by
  obtain ⟨m, n, rfl, himage⟩ := sameObservable_iff.mp h
  exact ⟨rfl, himage⟩

theorem SameObservable.deliver {e : HostEvent} {s t s' : State} (h : SameObservable s t)
    (he : deliver e s = .next s') : ∃ t', deliver e t = .next t' ∧ SameObservable s' t' := by
  cases e with
  | read off =>
    cases he
    refine ⟨_, deliver_read off t, ?_⟩
    rw [← h.hostRead]
    exact h.withReadData _
  | write off v => exact h.hostWrite he
  | reset =>
    cases he
    exact ⟨_, rfl, h.resetDevice⟩

theorem SameObservable.step {s t s' : State} (h : SameObservable s t) (he : step s = .next s') :
    ∃ t', step t = .next t' ∧ SameObservable s' t' := by
  have hbus : t.bus = s.bus := by rw [h.rest]
  cases hb : s.bus with
  | nil =>
    rw [step_of_idle hb] at he
    cases he
    exact ⟨t, step_of_idle (hbus.trans hb), h⟩
  | cons e rest =>
    rw [step_of_bus hb] at he
    rw [step_of_bus (hbus.trans hb)]
    exact (h.withBus rest).deliver he

/-- Settles O58: the relation is kept by every step, and it fixes the last read and STATUS. -/
theorem unspecifiedStorageIsUnobservable : Obligations.UnspecifiedStorageIsUnobservable := by
  intro s t s' h he
  obtain ⟨t', ht', h'⟩ := h.step he
  exact ⟨t', ht', h', h'.readData, h'.statusWord⟩

end Sys2Proof.Machine
end

section
/-! The word of every well-formed command fits its row, from the lemmas of Sys2Proof/Laws/PerInstr.lean. -/

namespace Sys2Proof.Laws.EncodesItsRow

theorem all (i : Instr) : Statement i :=
  match i with
  | .nop => nop
  | .unpack => unpack
  | .pack => pack
  | .rgb2hsv => rgb2hsv
  | .hsv2rgb => hsv2rgb
  | .construct sp => construct sp
  | .get => get
  | .set => set
  | .access => access
  | .foreach k => foreach k
  | .foreachIdx k b => foreachIdx k b
  | .foreachBor k b => foreachBor k b
  | .convert sp => convert sp
  | .hostDone => hostDone
  | .checkadj t u => checkadj t u
  | .erode t d => erode t d
  | .dilate t => dilate t

end Sys2Proof.Laws.EncodesItsRow
end

section
/-! Commands and their words (30_encoding.md R75 to R85). A word is its fields side by side, so each format accepts exactly
the words that it lays out; hence decoding and assembling are inverse, and decoding accepts exactly the rows of the opcode
table. -/

namespace Sys2Proof

/-! ### A word is its fields side by side (R75 to R77) -/

/-- A slice of a word is two vectors side by side exactly when its upper and its lower part are these. -/
theorem slice_eq_append_iff {v m n : Nat} (w : BitVec v) (lo : Nat) (x : BitVec m) (y : BitVec n) :
    w.extractLsb' lo (m + n) = x ++ y ↔ w.extractLsb' (lo + n) m = x ∧ w.extractLsb' lo n = y := by
  rw [← BitVec.extractLsb'_append_extractLsb'_eq_extractLsb' (start₁ := lo) (len₁ := n) (len₂ := m) rfl]
  constructor
  · intro h
    have hx := congrArg (BitVec.extractLsb' n m) h
    have hy := congrArg (BitVec.extractLsb' 0 n) h
    simp only [BitVec.extractLsb'_append_eq_left, BitVec.extractLsb'_append_eq_right] at hx hy
    exact ⟨hx, hy⟩
  · rintro ⟨rfl, rfl⟩
    rfl

theorem eq_append_iff {m n : Nat} (w : BitVec (m + n)) (x : BitVec m) (y : BitVec n) :
    w = x ++ y ↔ w.extractLsb' n m = x ∧ w.extractLsb' 0 n = y := by
  simpa [BitVec.extractLsb'_eq_self] using slice_eq_append_iff w 0 x y

/-- The layout of format N. -/
theorem eq_opcode_append_iff {w : Word} {o : Byte} {z : BitVec 24} :
    w = o ++ z ↔ opcField w = o ∧ w.extractLsb' 0 24 = z := eq_append_iff w o z

/-- The layout of format S. -/
theorem eq_opcode_append_spBit_iff {w : Word} {o : Byte} {z : BitVec 23} {b : BitVec 1} :
    w = o ++ z ++ b ↔ opcField w = o ∧ w.extractLsb' 1 23 = z ∧ w.extractLsb' 0 1 = b := by
  calc w = o ++ z ++ b
      ↔ w.extractLsb' 1 31 = o ++ z ∧ w.extractLsb' 0 1 = b := eq_append_iff w (o ++ z) b
    _ ↔ (opcField w = o ∧ w.extractLsb' 1 23 = z) ∧ w.extractLsb' 0 1 = b :=
        and_congr_left' (slice_eq_append_iff w 1 o z)
    _ ↔ _ := and_assoc

/-- The layout of formats K and KB. -/
theorem eq_opcode_append_half_iff {w : Word} {o k : Byte} {b : Half} :
    w = o ++ k ++ b ↔ opcField w = o ∧ kernelField w = k ∧ borderField w = b := by
  calc w = o ++ k ++ b
      ↔ w.extractLsb' 16 16 = o ++ k ∧ borderField w = b := eq_append_iff w (o ++ k) b
    _ ↔ (opcField w = o ∧ kernelField w = k) ∧ borderField w = b :=
        and_congr_left' (slice_eq_append_iff w 16 o k)
    _ ↔ _ := and_assoc

/-- The layout of formats TT and T. -/
theorem eq_opcode_append_bytes_iff {w : Word} {o z t u : Byte} :
    w = o ++ z ++ t ++ u ↔ opcField w = o ∧ w.extractLsb' 16 8 = z ∧ tgtField w = t ∧ lowField w = u := by
  calc w = o ++ z ++ t ++ u
      ↔ w.extractLsb' 8 24 = o ++ z ++ t ∧ lowField w = u := eq_append_iff w (o ++ z ++ t) u
    _ ↔ (w.extractLsb' 16 16 = o ++ z ∧ tgtField w = t) ∧ lowField w = u :=
        and_congr_left' (slice_eq_append_iff w 8 (o ++ z) t)
    _ ↔ ((opcField w = o ∧ w.extractLsb' 16 8 = z) ∧ tgtField w = t) ∧ lowField w = u :=
        and_congr_left' (and_congr_left' (slice_eq_append_iff w 16 o z))
    _ ↔ _ := by simp only [and_assoc]

/-- The SP field is its bit read as a colour space (R77). -/
theorem spField_eq_iff {w : Word} {sp : Space} : spField w = sp ↔ w.extractLsb' 0 1 = spBit sp := by
  unfold spField
  rcases BitVec.eq_zero_or_eq_one (w.extractLsb' 0 1) with h | h <;> rw [h] <;> cases sp <;> decide

/-! ### Each format accepts exactly the words it lays out (R76, R81) -/

/-- A format with one condition accepts exactly when the condition holds. -/
theorem ite_ok_eq_ok_iff {c : Prop} [Decidable c] {i j : Instr} {e : DecodeError} :
    (if c then .ok i else .error e : Except DecodeError Instr) = .ok j ↔ c ∧ i = j := by
  by_cases hc : c <;> simp [hc]

theorem formatN_eq_ok_iff {w : Word} {o : Byte} (ho : opcField w = o) {i j : Instr} :
    formatN w i = .ok j ↔ i = j ∧ w = o ++ 0#24 := by
  rw [eq_opcode_append_iff, formatN, ite_ok_eq_ok_iff]
  simp [ho, and_comm]

theorem formatS_eq_ok_iff {w : Word} {o : Byte} (ho : opcField w = o) {mk : Space → Instr} {j : Instr} :
    formatS w mk = .ok j ↔ ∃ sp, mk sp = j ∧ w = o ++ 0#23 ++ spBit sp := by
  rw [formatS, ite_ok_eq_ok_iff]
  simp [eq_opcode_append_spBit_iff, ← spField_eq_iff, ho, and_comm]

theorem formatK_eq_ok_iff {w : Word} {o : Byte} (ho : opcField w = o) {mk : Byte → Instr} {j : Instr} :
    formatK w mk = .ok j ↔ ∃ k, kernelDefined k = true ∧ mk k = j ∧ w = o ++ k ++ 0#16 := by
  simp only [eq_opcode_append_half_iff]
  cases hk : kernelDefined (kernelField w) <;> simp [formatK, ite_ok_eq_ok_iff, borderField, ho, hk, and_comm]

theorem formatKB_eq_ok_iff {w : Word} {o : Byte} (ho : opcField w = o) {mk : Byte → Half → Instr} {j : Instr} :
    formatKB w mk = .ok j ↔ ∃ k b, kernelDefined k = true ∧ mk k b = j ∧ w = o ++ k ++ b := by
  simp only [eq_opcode_append_half_iff]
  cases hk : kernelDefined (kernelField w) <;> simp [formatKB, ho, hk, and_comm]

theorem formatTT_eq_ok_iff {w : Word} {o : Byte} (ho : opcField w = o) {mk : Byte → Byte → Instr} {j : Instr} :
    formatTT w mk = .ok j ↔ ∃ t u, mk t u = j ∧ w = o ++ 0#8 ++ t ++ u := by
  rw [formatTT, ite_ok_eq_ok_iff]
  simp [eq_opcode_append_bytes_iff, ho, and_comm]

theorem formatT_eq_ok_iff {w : Word} {o : Byte} (ho : opcField w = o) {mk : Byte → Instr} {j : Instr} :
    formatT w mk = .ok j ↔ ∃ t, mk t = j ∧ w = o ++ 0#8 ++ t ++ 0#8 := by
  rw [formatT, ite_ok_eq_ok_iff]
  simp [eq_opcode_append_bytes_iff, lowField, ho, and_comm]

/-! ### Every opcode is read in its own format (R78) -/

/-- OPC of a command's word (R78). -/
def Instr.opcode : Instr → Byte
  | .nop => 0x00#8
  | .unpack => 0x01#8
  | .pack => 0x02#8
  | .rgb2hsv => 0x03#8
  | .hsv2rgb => 0x04#8
  | .construct _ => 0x10#8
  | .get => 0x11#8
  | .set => 0x12#8
  | .access => 0x13#8
  | .foreach _ => 0x20#8
  | .foreachIdx _ _ => 0x21#8
  | .foreachBor _ _ => 0x22#8
  | .convert _ => 0x23#8
  | .hostDone => 0x2F#8
  | .checkadj _ _ => 0x30#8
  | .erode _ _ => 0x31#8
  | .dilate _ => 0x32#8

/-- The reading of a word in the format of a command (R76, R78); the command's own operands do not matter. -/
def Instr.format (i : Instr) (w : Word) : Except DecodeError Instr :=
  match i with
  | .nop | .unpack | .pack | .rgb2hsv | .hsv2rgb | .get | .set | .access | .hostDone => formatN w i
  | .construct _ => formatS w .construct
  | .foreach _ => formatK w .foreach
  | .foreachIdx _ _ => formatKB w .foreachIdx
  | .foreachBor _ _ => formatKB w .foreachBor
  | .convert _ => formatS w .convert
  | .checkadj _ _ => formatTT w .checkadj
  | .erode _ _ => formatTT w .erode
  | .dilate _ => formatT w .dilate

theorem decode_of_opcode {w : Word} {i : Instr} (h : opcField w = i.opcode) : decode w = i.format w := by
  unfold decode
  rw [h]
  cases i <;> rfl

/-- A word that has no command's opcode is illegal (R81). -/
theorem decode_of_no_opcode {w : Word} (h : ∀ i : Instr, opcField w ≠ i.opcode) :
    decode w = .error .undefinedOpcode := by
  unfold decode
  exact (if_neg (h .nop)).trans <| (if_neg (h .unpack)).trans <| (if_neg (h .pack)).trans <|
    (if_neg (h .rgb2hsv)).trans <| (if_neg (h .hsv2rgb)).trans <| (if_neg (h (.construct .rgb))).trans <|
    (if_neg (h .get)).trans <| (if_neg (h .set)).trans <| (if_neg (h .access)).trans <|
    (if_neg (h (.foreach 0))).trans <| (if_neg (h (.foreachIdx 0 0))).trans <|
    (if_neg (h (.foreachBor 0 0))).trans <| (if_neg (h (.convert .rgb))).trans <| (if_neg (h .hostDone)).trans <|
    (if_neg (h (.checkadj 0 0))).trans <| (if_neg (h (.erode 0 0))).trans <| if_neg (h (.dilate 0))

theorem opcField_encode (i : Instr) : opcField (encode i) = i.opcode := by
  cases i with
  | construct | convert => exact (eq_opcode_append_spBit_iff.mp rfl).1
  | foreach | foreachIdx | foreachBor => exact (eq_opcode_append_half_iff.mp rfl).1
  | checkadj | erode | dilate => exact (eq_opcode_append_bytes_iff.mp rfl).1
  | _ => exact (eq_opcode_append_iff.mp rfl).1

/-! ### Decoding and assembling are inverse -/

/-- The format of a well-formed command reads the command from its word. -/
theorem Instr.format_encode {i : Instr} (hwf : i.wellFormed = true) : i.format (encode i) = .ok i := by
  have ho : opcField (encode i) = i.opcode := opcField_encode i
  cases i with
  | construct sp | convert sp => exact (formatS_eq_ok_iff ho).mpr ⟨sp, rfl, rfl⟩
  | foreach k => exact (formatK_eq_ok_iff ho).mpr ⟨k, hwf, rfl, rfl⟩
  | foreachIdx k b | foreachBor k b => exact (formatKB_eq_ok_iff ho).mpr ⟨k, b, hwf, rfl, rfl⟩
  | checkadj t u | erode t u => exact (formatTT_eq_ok_iff ho).mpr ⟨t, u, rfl, rfl⟩
  | dilate t => exact (formatT_eq_ok_iff ho).mpr ⟨t, rfl, rfl⟩
  | _ => exact (formatN_eq_ok_iff ho).mpr ⟨rfl, rfl⟩

/-- What a format reads from a word of its opcode is a well-formed command, and the word is that command's. -/
theorem Instr.encode_of_format {w : Word} {i j : Instr} (ho : opcField w = j.opcode) (h : j.format w = .ok i) :
    i.wellFormed = true ∧ encode i = w := by
  cases j with
  | construct | convert =>
    obtain ⟨sp, rfl, hw⟩ := (formatS_eq_ok_iff ho).mp h
    exact ⟨rfl, hw.symm⟩
  | foreach =>
    obtain ⟨k, hk, rfl, hw⟩ := (formatK_eq_ok_iff ho).mp h
    exact ⟨hk, hw.symm⟩
  | foreachIdx | foreachBor =>
    obtain ⟨k, b, hk, rfl, hw⟩ := (formatKB_eq_ok_iff ho).mp h
    exact ⟨hk, hw.symm⟩
  | checkadj | erode =>
    obtain ⟨t, u, rfl, hw⟩ := (formatTT_eq_ok_iff ho).mp h
    exact ⟨rfl, hw.symm⟩
  | dilate =>
    obtain ⟨t, rfl, hw⟩ := (formatT_eq_ok_iff ho).mp h
    exact ⟨rfl, hw.symm⟩
  | _ =>
    obtain ⟨rfl, hw⟩ := (formatN_eq_ok_iff ho).mp h
    exact ⟨rfl, hw.symm⟩

/-- Settles O1: the word carries its command's opcode, and that opcode's format reads the operands back. -/
theorem decodeOfEncode : Obligations.DecodeOfEncode := by
  intro i hwf
  rw [decode_of_opcode (opcField_encode i), Instr.format_encode hwf]

/-- Settles O2: the word has some command's opcode, and a format accepts only the words that it lays out. -/
theorem encodeOfDecode : Obligations.EncodeOfDecode := by
  intro w i h
  by_cases ho : ∃ j : Instr, opcField w = j.opcode
  · obtain ⟨j, hj⟩ := ho
    rw [decode_of_opcode hj] at h
    exact Instr.encode_of_format hj h
  · rw [decode_of_no_opcode (not_exists.mp ho)] at h
    cases h

/-- A word decodes to a command exactly when the command is well-formed and assembles to the word. -/
theorem decode_eq_ok_iff {w : Word} {i : Instr} : decode w = .ok i ↔ i.wellFormed = true ∧ encode i = w :=
  ⟨encodeOfDecode w i, fun ⟨hwf, hw⟩ => hw ▸ decodeOfEncode i hwf⟩

/-- Settles O5: each word is the word of the well-formed command named. -/
theorem writtenOutWordsDecode : Obligations.WrittenOutWordsDecode := by
  unfold Obligations.WrittenOutWordsDecode
  simp only [decode_eq_ok_iff]
  decide

/-! ### The rows of the opcode table -/

/-- A field that a row's mask covers has the row's value in every word that fits the row. -/
theorem OpcodeRow.field_of_fits {r : OpcodeRow} {w : Word} (h : r.fits w = true) (lo n : Nat)
    (hmask : r.mask.extractLsb' lo n = BitVec.allOnes n) : w.extractLsb' lo n = r.pattern.extractLsb' lo n := by
  simp only [OpcodeRow.fits, Bool.and_eq_true, decide_eq_true_eq] at h
  rw [← h.1, BitVec.extractLsb'_and, hmask, BitVec.and_allOnes]

/-- Where the row's note restricts KERNEL, a word that fits the row names a kernel. -/
theorem OpcodeRow.kernelDefined_of_fits {r : OpcodeRow} {w : Word} (h : r.fits w = true) (hk : r.hasKernel = true) :
    kernelDefined (kernelField w) = true := by
  simpa [OpcodeRow.fits, hk] using (Bool.and_eq_true_iff.mp h).2

/-- Every row covers OPC. -/
theorem opcField_of_fits {r : OpcodeRow} (hr : r ∈ opcodeTable) {w : Word} (h : r.fits w = true) :
    opcField w = opcField r.pattern := by
  have hmask : ∀ r ∈ opcodeTable, r.mask.extractLsb' 24 8 = BitVec.allOnes 8 := by decide
  exact OpcodeRow.field_of_fits h 24 8 (hmask r hr)

/-- Settles O4: no two rows have one opcode. -/
theorem opcodeRowsDoNotOverlap : Obligations.OpcodeRowsDoNotOverlap := by
  have hopc : opcodeTable.Pairwise fun r r' => opcField r.pattern ≠ opcField r'.pattern := by decide
  exact hopc.imp_of_mem fun hr hr' hne w ⟨h, h'⟩ =>
    hne ((opcField_of_fits hr h).symm.trans (opcField_of_fits hr' h'))

/-- The mask of a command's row: every bit that is no operand's (R76). -/
def Instr.fixedBits : Instr → Word
  | .construct _ | .convert _ => 0xFFFFFFFE#32
  | .foreach _ => 0xFF00FFFF#32
  | .foreachIdx _ _ | .foreachBor _ _ => 0xFF000000#32
  | .checkadj _ _ | .erode _ _ => 0xFFFF0000#32
  | .dilate _ => 0xFFFF00FF#32
  | _ => 0xFFFFFFFF#32

/-- A command of each opcode, in the order of R78. -/
def commands : List Instr :=
  [.nop, .unpack, .pack, .rgb2hsv, .hsv2rgb, .construct .rgb, .get, .set, .access, .foreach 0, .foreachIdx 0 0,
    .foreachBor 0 0, .convert .rgb, .hostDone, .checkadj 0 0, .erode 0 0, .dilate 0]

/-- The row of a command's opcode. -/
def Instr.row (i : Instr) : OpcodeRow :=
  ⟨i.mnemonic, i.opcode ++ 0#24, i.fixedBits, i matches .foreach _ | .foreachIdx _ _ | .foreachBor _ _⟩

theorem opcodeTable_eq : opcodeTable = commands.map Instr.row := by decide

/-- The fields below OPC that the mask covers are zero in every word that fits the row. -/
theorem Instr.reserved_of_fits {j : Instr} {w : Word} (h : j.row.fits w = true) {m : Word} (hm : j.fixedBits = m)
    {lo n : Nat} (hlo : lo + n ≤ 24) (hmask : m.extractLsb' lo n = BitVec.allOnes n) : w.extractLsb' lo n = 0#n := by
  have hpattern : j.row.pattern.extractLsb' lo n = 0#n :=
    (BitVec.extractLsb'_append_eq_of_add_le hlo).trans BitVec.extractLsb'_zero
  subst hm
  exact (OpcodeRow.field_of_fits h lo n hmask).trans hpattern

/-- A word that fits a row is accepted by the format of the row's opcode, as a command of the row's mnemonic. -/
theorem Instr.format_of_fits {j : Instr} {w : Word} (h : j.row.fits w = true) :
    ∃ i, j.format w = .ok i ∧ i.mnemonic = j.mnemonic := by
  cases j with
  | construct | convert =>
    have hz : w.extractLsb' 1 23 = 0#23 := Instr.reserved_of_fits (m := 0xFFFFFFFE#32) h rfl (by decide) (by decide)
    exact ⟨_, if_pos hz, rfl⟩
  | foreach =>
    have hk : kernelDefined (kernelField w) = true := OpcodeRow.kernelDefined_of_fits h rfl
    have hz : w.extractLsb' 0 16 = 0#16 := Instr.reserved_of_fits (m := 0xFF00FFFF#32) h rfl (by decide) (by decide)
    exact ⟨_, (if_neg (by simp [hk])).trans (if_pos hz), rfl⟩
  | foreachIdx | foreachBor =>
    have hk : kernelDefined (kernelField w) = true := OpcodeRow.kernelDefined_of_fits h rfl
    exact ⟨_, if_neg (by simp [hk]), rfl⟩
  | checkadj | erode =>
    have hz : w.extractLsb' 16 8 = 0#8 := Instr.reserved_of_fits (m := 0xFFFF0000#32) h rfl (by decide) (by decide)
    exact ⟨_, if_pos hz, rfl⟩
  | dilate =>
    have hz : w.extractLsb' 16 8 = 0#8 := Instr.reserved_of_fits (m := 0xFFFF00FF#32) h rfl (by decide) (by decide)
    have hz' : w.extractLsb' 0 8 = 0#8 := Instr.reserved_of_fits (m := 0xFFFF00FF#32) h rfl (by decide) (by decide)
    exact ⟨_, if_pos ⟨hz, hz'⟩, rfl⟩
  | _ =>
    have hz : w.extractLsb' 0 24 = 0#24 := Instr.reserved_of_fits (m := 0xFFFFFFFF#32) h rfl (by decide) (by decide)
    exact ⟨_, if_pos hz, rfl⟩

theorem opcField_row_pattern (i : Instr) : opcField i.row.pattern = i.opcode :=
  (eq_opcode_append_iff.mp rfl).1

/-- Settles O3: a word that decodes is its command's word, which fits the row; a word that fits a row has the row's opcode,
whose format accepts it. -/
theorem decodesExactlyTheOpcodeTable : Obligations.DecodesExactlyTheOpcodeTable := by
  constructor
  · intro w i h
    obtain ⟨hwf, rfl⟩ := decode_eq_ok_iff.mp h
    obtain ⟨r, hr, hmn, hfits⟩ := Laws.EncodesItsRow.all i hwf
    exact ⟨r, hr, hfits, hmn⟩
  · intro w r hr hfits
    have hopc : opcField w = opcField r.pattern := opcField_of_fits hr hfits
    rw [opcodeTable_eq] at hr
    obtain ⟨j, -, rfl⟩ := List.mem_map.mp hr
    rw [decode_of_opcode (hopc.trans (opcField_row_pattern j))]
    exact Instr.format_of_fits hfits

end Sys2Proof
end

section
/-! The checks of the traversal commands, and traversals that visit no cell (44_traversal.md R171, R175, R181, R182). -/

namespace Sys2Proof.Machine

theorem kernelCheck_of_undefined {k : Byte} (h : 2 < k.toNat) : kernelCheck k = (true, .illegalCommand) := by
  have h0 : k ≠ 0x00#8 := by rintro rfl; contradiction
  have h1 : k ≠ 0x01#8 := by rintro rfl; contradiction
  have h2 : k ≠ 0x02#8 := by rintro rfl; contradiction
  simp [kernelCheck, Kernel.ofField, h0, h1, h2]

/-- A traversal command whose KERNEL names a kernel makes the callback and the construction check, in this order. -/
theorem State.traversalCommand_of_defined {k : Byte} (hk : k.toNat ≤ 2) (md : TravMode) (b : Nat) (s : State) :
    s.traversalCommand md k b = guarded [s.busyCheck, s.imageCheck] s (s.traverseField md k b) := by
  rw [State.traversalCommand_eq, kernelCheck_of_defined (decide_eq_true hk), guarded_cons, if_neg Bool.false_ne_true]

/-- V(b) is empty when 2b reaches a dimension (44_traversal.md R171). -/
theorem State.visited_eq_nil {s : State} {b : Nat} (h : s.width.toNat ≤ 2 * b ∨ s.height.toNat ≤ 2 * b) :
    s.visited b = [] := by
  refine List.eq_nil_iff_forall_not_mem.mpr fun p hp => ?_
  rw [State.mem_visited] at hp
  omega

/-- A traversal that visits no cell changes nothing, whatever its kernel. -/
theorem State.traverseField_of_nil {s : State} {b : Nat} (h : s.visited b = []) (md : TravMode) (k : Byte) :
    s.traverseField md k b = s := by
  have hbuiltin : ∀ f, s.traverseBuiltin f b = s := fun f => by rw [State.traverseBuiltin, h]; rfl
  unfold State.traverseField
  cases Kernel.ofField k with
  | none => rfl
  | some k =>
    cases k with
    | host => exact State.traverseHost_of_nil h md
    | kRgb2hsv | kHsv2rgb => exact hbuiltin _

/-- Settles O34: the first failing check decides; with none, the traversal runs over the empty set. -/
theorem traversalChecksAndEmptySets : Obligations.TraversalChecksAndEmptySets := by
  intro i md k b s h
  rw [exec_of_traversalOf h]
  refine ⟨fun hk => ?_, fun hk ha => ?_, fun hk ha hc => ?_, fun hk ha hc hempty => ?_⟩
  · simp [State.traversalCommand_eq, kernelCheck_of_undefined hk]
  · simp [State.traversalCommand_of_defined hk, State.busyCheck, ha]
  · simp [State.traversalCommand_of_defined hk, State.busyCheck, State.imageCheck, ha, hc]
  · simp [State.traversalCommand_of_defined hk, State.busyCheck, State.imageCheck, ha, hc,
      State.traverseField_of_nil (State.visited_eq_nil hempty)]

end Sys2Proof.Machine
end

section
/-! The register window as a host read sees it (10_state.md R21, 40_host_interface.md R101) and the number STATUS reads as
(40_host_interface.md R106). -/

namespace Sys2Proof.Machine

/-! ### The register at an offset (10_state.md R21, R36) -/

theorem Reg.atOffset_offset (r : Reg) : Reg.atOffset r.offset = some r := by cases r <;> rfl

theorem Reg.atOffset_eq_some_iff {off : BitVec 8} {r : Reg} : Reg.atOffset off = some r ↔ off = r.offset := by
  constructor
  · intro h
    unfold Reg.atOffset at h
    split at h
    · exact (of_decide_eq_true (List.find?_some (p := fun r : Reg => decide (r.offset = off)) h)).symm
    · cases h
  · rintro rfl
    exact Reg.atOffset_offset r

theorem Reg.atOffset_eq_none_iff {off : BitVec 8} : Reg.atOffset off = none ↔ ∀ r : Reg, off ≠ r.offset := by
  simp [Option.eq_none_iff_forall_ne_some, Reg.atOffset_eq_some_iff]

/-- Every register stands at a word of the window, and CAPACITY is the last. -/
theorem Reg.offset_aligned_le (r : Reg) : r.offset.toNat % 4 = 0 ∧ r.offset ≤ 0x38#8 := by cases r <;> decide

/-! ### What a read returns -/

theorem State.hostRead_of_offset {off : BitVec 8} {r : Reg} (h : off = r.offset) (s : State) :
    s.hostRead off = s.getReg r := by
  rw [State.hostRead, Reg.atOffset_eq_some_iff.mpr h]

/-- A misaligned or reserved offset reads 0. -/
theorem State.hostRead_of_no_register {off : BitVec 8} (h : ∀ r : Reg, off ≠ r.offset) (s : State) :
    s.hostRead off = 0 := by
  rw [State.hostRead, Reg.atOffset_eq_none_iff.mpr h]

/-- A register of fewer than 32 bits is read zero-extended, so a read returns its number. -/
theorem State.toNat_hostRead_of_offset {off : BitVec 8} {r : Reg} (h : off = r.offset) {s : State} {n : Nat}
    {x : BitVec n} (hx : s.getReg r = x.setWidth 32) (hn : n ≤ 32) : (s.hostRead off).toNat = x.toNat := by
  rw [State.hostRead_of_offset h, hx, BitVec.toNat_setWidth_of_le hn]

/-- Settles O7: an offset is that of one register, whose value the read returns, or of none, which reads 0. -/
theorem hostReadReturnsTheRegister : Obligations.HostReadReturnsTheRegister := by
  intro s off rest hb
  have hmisaligned : off.toNat % 4 ≠ 0 → s.hostRead off = 0 := fun h =>
    State.hostRead_of_no_register (fun r hr => h (by rw [hr, r.offset_aligned_le.1])) s
  have hreserved : 0x38#8 < off → s.hostRead off = 0 := fun h =>
    State.hostRead_of_no_register (fun r hr => BitVec.not_lt.mpr r.offset_aligned_le.2 (hr ▸ h)) s
  exact ⟨s.hostRead off, step_read hb, hmisaligned,
    fun h => State.hostRead_of_offset (r := .cmd) h s,
    fun h => State.hostRead_of_offset (r := .status) h s,
    fun h => State.hostRead_of_offset (r := .word) h s,
    fun h => State.toNat_hostRead_of_offset (r := .chA) h rfl (by decide),
    fun h => State.toNat_hostRead_of_offset (r := .chB) h rfl (by decide),
    fun h => State.toNat_hostRead_of_offset (r := .chC) h rfl (by decide),
    fun h => State.toNat_hostRead_of_offset (r := .chM) h rfl (by decide),
    fun h => State.toNat_hostRead_of_offset (r := .x) h rfl (by decide),
    fun h => State.toNat_hostRead_of_offset (r := .y) h rfl (by decide),
    fun h => State.toNat_hostRead_of_offset (r := .width) h rfl (by decide),
    fun h => State.toNat_hostRead_of_offset (r := .height) h rfl (by decide),
    fun h => State.toNat_hostRead_of_offset (r := .curX) h rfl (by decide),
    fun h => State.toNat_hostRead_of_offset (r := .curY) h rfl (by decide),
    fun h => State.toNat_hostRead_of_offset (r := .count) h rfl (by decide),
    fun h => State.hostRead_of_offset (r := .capacity) h s, hreserved⟩

/-! ### STATUS as a number -/

/-- A field placed above all bits of `x` adds its value at its place. -/
theorem toNat_or_field {x : Word} {n k : Nat} (hx : x.toNat < 2 ^ k) (y : BitVec n) (hn : n + k ≤ 32) :
    (x ||| (y.setWidth 32 <<< k)).toNat = x.toNat + 2 ^ k * y.toNat := by
  have hfits : y.toNat * 2 ^ k < 2 ^ 32 := by
    calc y.toNat * 2 ^ k < 2 ^ n * 2 ^ k := Nat.mul_lt_mul_of_pos_right y.isLt (Nat.two_pow_pos k)
      _ = 2 ^ (n + k) := (pow_add 2 n k).symm
      _ ≤ 2 ^ 32 := Nat.pow_le_pow_right (by decide) hn
  have hfield : (y.setWidth 32 <<< k).toNat = y.toNat <<< k := by
    rw [BitVec.toNat_shiftLeft, BitVec.toNat_setWidth_of_le (by omega), Nat.shiftLeft_eq, Nat.mod_eq_of_lt hfits]
  rw [BitVec.toNat_or, hfield, Nat.or_comm, ← Nat.shiftLeft_add_eq_or_of_lt hx, Nat.shiftLeft_eq]
  ring

/-- A sum of a low part and a field stays below the field's upper end. -/
theorem toNat_or_field_lt {x : Word} {n k m : Nat} (hx : x.toNat < 2 ^ k) (y : BitVec n) (hm : n + k ≤ m)
    (hm32 : m ≤ 32) : (x ||| (y.setWidth 32 <<< k)).toNat < 2 ^ m := by
  rw [toNat_or_field hx y (hm.trans hm32)]
  calc x.toNat + 2 ^ k * y.toNat < 2 ^ k * (y.toNat + 1) := by rw [Nat.mul_succ]; omega
    _ ≤ 2 ^ k * 2 ^ n := Nat.mul_le_mul_left _ y.isLt
    _ = 2 ^ (n + k) := by rw [Nat.add_comm n k, pow_add]
    _ ≤ 2 ^ m := Nat.pow_le_pow_right (by decide) hm

@[simp] theorem toNat_flagBit (b : Bool) : (flagBit b).toNat = b.toNat := BitVec.toNat_ofBool b

/-- STATUS is the sum of its fields, each at its place (10_state.md R30). -/
theorem State.toNat_statusWord (s : State) :
    s.statusWord.toNat = s.fault.toNat + 2 ^ 1 * s.constructed.toNat + 2 ^ 2 * (spaceBit s.space).toNat +
      2 ^ 3 * s.trav.active.toNat + 2 ^ 4 * s.trav.mode.code.toNat + 2 ^ 8 * s.errcode.code.toNat := by
  have hfault : ((flagBit s.fault).setWidth 32).toNat = s.fault.toNat := by
    rw [BitVec.toNat_setWidth_of_le (by decide), toNat_flagBit]
  have h1 : ((flagBit s.fault).setWidth 32).toNat < 2 ^ 1 := hfault ▸ Bool.toNat_lt _
  have h2 := toNat_or_field_lt (m := 2) h1 (flagBit s.constructed) (by decide) (by decide)
  have h3 := toNat_or_field_lt (m := 3) h2 (spaceBit s.space) (by decide) (by decide)
  have h4 := toNat_or_field_lt (m := 4) h3 (flagBit s.callback) (by decide) (by decide)
  have h8 := toNat_or_field_lt (m := 8) h4 s.tmode.code (by decide) (by decide)
  rw [State.statusWord, toNat_or_field h8 _ (by decide), toNat_or_field h4 _ (by decide),
    toNat_or_field h3 _ (by decide), toNat_or_field h2 _ (by decide), toNat_or_field h1 _ (by decide), hfault,
    toNat_flagBit, toNat_flagBit, State.callback, State.tmode]

/-- Settles O10: the sum of the fields, with the numbers of SPACE and TMODE written out. -/
theorem statusWordIsItsFields : Obligations.StatusWordIsItsFields := by
  intro s
  rw [s.toNat_statusWord]
  cases s.space <;> cases s.trav.mode <;> rfl

end Sys2Proof.Machine
end

section
/-! A host write of a register, one equation per kind of register: what it stores, and the first check that fails
(40_host_interface.md R102, 60_exceptions.md R228). -/

namespace Sys2Proof.Machine

/-! ### The kinds of writable register (10_state.md R24 to R26) -/

theorem Reg.hostWritable_of_isChannel {r : Reg} (h : r.isChannel = true) : r.hostWritable = true := by
  revert h; cases r <;> decide

theorem Reg.hostWritable_of_isHalf {r : Reg} (h : r.isHalf = true) : r.hostWritable = true := by
  revert h; cases r <;> decide

/-- A register of 8 bits is not one of 16, so it is no dimension either. -/
theorem Reg.not_isHalf_of_isChannel {r : Reg} (h : r.isChannel = true) : r.isHalf = false ∧ r.isDimension = false := by
  revert h; cases r <;> decide

theorem Reg.not_isChannel_of_isHalf {r : Reg} (h : r.isHalf = true) : r.isChannel = false := by
  revert h; cases r <;> decide

theorem Reg.offset_ne_cmd_of_hostWritable {r : Reg} (h : r.hostWritable = true) : r.offset ≠ Reg.offset .cmd := by
  revert h; cases r <;> decide

/-- The nine writable registers stand at the nine offsets of 40_host_interface.md R102. -/
theorem Reg.offset_mem_of_hostWritable {r : Reg} (h : r.hostWritable = true) :
    r.offset ∈ [0x08#8, 0x0C#8, 0x10#8, 0x14#8, 0x18#8, 0x1C#8, 0x20#8, 0x24#8, 0x28#8] := by
  revert h; cases r <;> decide

/-! ### The register part of a write -/

/-- A write of a writable register makes its checks and then stores. -/
theorem State.writeRegister_of_hostWritable {r : Reg} (h : r.hostWritable = true) (v : Word) (s : State) :
    s.writeRegister r.offset v = guarded (writeChecks r v s) s (s.setReg r v) := by
  rw [State.writeRegister, Reg.atOffset_offset, Option.filter_some_pos h]
  rfl

theorem State.writeRegister_of_not_hostWritable {off : BitVec 8} (h : ∀ r : Reg, r.hostWritable = true → off ≠ r.offset)
    (v : Word) (s : State) : s.writeRegister off v = s.raise .badRegister := by
  have hnone : (Reg.atOffset off).filter Reg.hostWritable = none :=
    Option.filter_eq_none_iff.mpr fun r hr hw => h r hw (Reg.atOffset_eq_some_iff.mp hr)
  rw [State.writeRegister, hnone]

theorem State.writeRegister_word (v : Word) (s : State) :
    s.writeRegister (Reg.offset .word) v = { s with word := v } :=
  State.writeRegister_of_hostWritable (r := .word) rfl v s

/-- A channel holds 8 bits. -/
theorem State.writeRegister_of_isChannel {r : Reg} (h : r.isChannel = true) (v : Word) (s : State) :
    s.writeRegister r.offset v = if 0xFF < v.toNat then s.raise .channelRange else s.setReg r v := by
  obtain ⟨hhalf, hdim⟩ := Reg.not_isHalf_of_isChannel h
  simp [State.writeRegister_of_hostWritable (Reg.hostWritable_of_isChannel h), writeChecks, h, hhalf, hdim]

/-- A half register holds 16 bits; the lock of the dimensions is checked first. -/
theorem State.writeRegister_of_isHalf {r : Reg} (h : r.isHalf = true) (v : Word) (s : State) :
    s.writeRegister r.offset v =
      if r.isDimension && s.constructed then s.raise .dimLocked
      else if 0xFFFF < v.toNat then s.raise .regRange else s.setReg r v := by
  simp [State.writeRegister_of_hostWritable (Reg.hostWritable_of_isHalf h), writeChecks, h, Reg.not_isChannel_of_isHalf h]

/-! ### The step that delivers the write -/

/-- With FAULT = 0 a write of any offset but CMD's is a write of a register. -/
theorem step_writeRegister {s : State} (hf : s.fault = false) {off : BitVec 8} {v : Word} {rest : List HostEvent}
    (hb : s.bus = .write off v :: rest) (ho : off ≠ Reg.offset .cmd) :
    step s = .next (State.writeRegister off v { s with bus := rest }) := by
  rw [step_of_bus hb, deliver_write]
  simp [hostWrite, hf, ho]

theorem step_write_channel {s : State} (hf : s.fault = false) {off : BitVec 8} {v : Word} {rest : List HostEvent}
    (hb : s.bus = .write off v :: rest) {r : Reg} (hr : r.isChannel = true) (ho : off = r.offset) :
    step s = .next (if 0xFF < v.toNat then State.raise .channelRange { s with bus := rest }
      else State.setReg r v { s with bus := rest }) := by
  subst ho
  rw [step_writeRegister hf hb (Reg.offset_ne_cmd_of_hostWritable (Reg.hostWritable_of_isChannel hr)),
    State.writeRegister_of_isChannel hr]

theorem step_write_half {s : State} (hf : s.fault = false) {off : BitVec 8} {v : Word} {rest : List HostEvent}
    (hb : s.bus = .write off v :: rest) {r : Reg} (hr : r.isHalf = true) (ho : off = r.offset) :
    step s = .next (if r.isDimension && s.constructed then State.raise .dimLocked { s with bus := rest }
      else if 0xFFFF < v.toNat then State.raise .regRange { s with bus := rest }
      else State.setReg r v { s with bus := rest }) := by
  subst ho
  rw [step_writeRegister hf hb (Reg.offset_ne_cmd_of_hostWritable (Reg.hostWritable_of_isHalf hr)),
    State.writeRegister_of_isHalf hr]

/-- Settles O8: within its range a channel or a half register that is not locked takes the value, narrowed without
loss. -/
theorem hostWriteStoresInRange : Obligations.HostWriteStoresInRange := by
  intro s off v rest hf hb
  refine ⟨?word, fun hv => ?channels, fun hv => ?halves⟩
  case word =>
    rintro rfl
    rw [step_writeRegister hf hb (by decide)]
    exact congrArg _ (State.writeRegister_word v _)
  case channels =>
    have hbyte : (v.setWidth 8).toNat = v.toNat := (BitVec.toNat_setWidth _ v).trans (Nat.mod_eq_of_lt (by omega))
    have hstep : ∀ r : Reg, r.isChannel = true → off = r.offset →
        step s = .next (State.setReg r v { s with bus := rest }) := fun r hr ho => by
      rw [step_write_channel hf hb hr ho, if_neg (by omega)]
    exact ⟨fun h => ⟨_, hbyte, hstep .chA rfl h⟩, fun h => ⟨_, hbyte, hstep .chB rfl h⟩,
      fun h => ⟨_, hbyte, hstep .chC rfl h⟩, fun h => ⟨_, hbyte, hstep .chM rfl h⟩⟩
  case halves =>
    have hhalf : (v.setWidth 16).toNat = v.toNat := (BitVec.toNat_setWidth _ v).trans (Nat.mod_eq_of_lt (by omega))
    have hstep : ∀ r : Reg, r.isHalf = true → (r.isDimension && s.constructed) = false → off = r.offset →
        step s = .next (State.setReg r v { s with bus := rest }) := fun r hr hlock ho => by
      rw [step_write_half hf hb hr ho, hlock, if_neg Bool.false_ne_true, if_neg (by omega)]
    exact ⟨fun h => ⟨_, hhalf, hstep .x rfl rfl h⟩, fun h => ⟨_, hhalf, hstep .y rfl rfl h⟩,
      fun hc => ⟨fun h => ⟨_, hhalf, hstep .width rfl hc h⟩, fun h => ⟨_, hhalf, hstep .height rfl hc h⟩⟩⟩

/-- Settles O9: an offset of no writable register, a locked dimension, a value too large for its register. -/
theorem hostWriteFaultsInOrder : Obligations.HostWriteFaultsInOrder := by
  intro s off v rest hf hb
  have hlocked : ∀ r : Reg, r.isHalf = true → (r.isDimension && s.constructed) = true → off = r.offset →
      step s = .next (State.raise .dimLocked { s with bus := rest }) := fun r hr hlock ho => by
    rw [step_write_half hf hb hr ho, if_pos hlock]
  have hrange : ∀ r : Reg, r.isHalf = true → (r.isDimension && s.constructed) = false → 0xFFFF < v.toNat →
      off = r.offset → step s = .next (State.raise .regRange { s with bus := rest }) := fun r hr hlock hv ho => by
    rw [step_write_half hf hb hr ho, hlock, if_neg Bool.false_ne_true, if_pos hv]
  have hchannel : ∀ r : Reg, r.isChannel = true → 0xFF < v.toNat → off = r.offset →
      step s = .next (State.raise .channelRange { s with bus := rest }) := fun r hr hv ho => by
    rw [step_write_channel hf hb hr ho, if_pos hv]
  refine ⟨fun hcmd hno => ?bad, fun ho hc => ?locked, fun ho hc hv => ?dimension, fun ho hv => ?coordinate,
    fun ho hv => ?channel⟩
  case bad =>
    have hnone : ∀ r : Reg, r.hostWritable = true → off ≠ r.offset := fun r hr ho =>
      hno (ho ▸ Reg.offset_mem_of_hostWritable hr)
    rw [step_writeRegister hf hb hcmd, State.writeRegister_of_not_hostWritable hnone]
  case locked => exact ho.elim (hlocked .width rfl hc) (hlocked .height rfl hc)
  case dimension => exact ho.elim (hrange .width rfl hc hv) (hrange .height rfl hc hv)
  case coordinate => exact ho.elim (hrange .x rfl rfl hv) (hrange .y rfl rfl hv)
  case channel =>
    obtain ho | ho | ho | ho := ho
    · exact hchannel .chA rfl hv ho
    · exact hchannel .chB rfl hv ho
    · exact hchannel .chC rfl hv ho
    · exact hchannel .chM rfl hv ho

end Sys2Proof.Machine
end

section
/-! The commands of format N, and NOP (30_encoding.md R76, R81, 40_host_interface.md R105). -/

namespace Sys2Proof.Machine

/-- A command read in format N has one word, and every other word of its opcode is illegal. -/
theorem formatNCommand_of_format {i : Instr} (hformat : ∀ w, i.format w = formatN w i)
    (hword : encode i = i.opcode ++ 0#24) : FormatNCommand i.opcode i := by
  refine ⟨hword, ?_, fun w ho hne => ?_⟩
  · rw [decode_of_opcode (opcField_encode i), hformat, formatN_eq_ok_iff (opcField_encode i)]
    exact ⟨rfl, hword⟩
  · have hbits : w.extractLsb' 0 24 ≠ 0#24 := fun hz =>
      hne ((eq_opcode_append_iff.mpr ⟨ho, hz⟩).trans hword.symm)
    rw [decode_of_opcode ho, hformat, formatN, if_neg hbits]

/-- Settles O17. -/
theorem nopChangesNothing : Obligations.NopChangesNothing :=
  ⟨formatNCommand_of_format (i := .nop) (fun _ => rfl) rfl, rfl, fun _ => rfl⟩

end Sys2Proof.Machine
end

section
/-! The pixel codec: UNPACK, PACK and the two round-trip laws (41_codec.md R118 to R120). -/

namespace Sys2Proof.Machine

theorem exec_unpack (s : State) : exec .unpack s = .next (s.setChannels (unpack s.word)) := rfl

theorem exec_pack (s : State) : exec .pack s = .next { s with word := pack s.channels } := rfl

@[simp] theorem unpack_pack (p : Pixel) : unpack (pack p) = p := by
  rw [pack_eq_append, unpack_append]

/-- The four lanes are all of a word. -/
@[simp] theorem pack_unpack (w : Word) : pack (unpack w) = w := by
  obtain ⟨ha, hb, hc, hm⟩ := unpack_toNat w
  apply BitVec.eq_of_toNat_eq
  rw [pack_toNat, ha, hb, hc, hm]
  omega

/-- Settles O20. -/
theorem packUnpackRoundTrip : Obligations.PackUnpackRoundTrip := ⟨unpack_pack, pack_unpack⟩

/-- Settles O18: the channels hold the lanes of WORD, and the rest of the state is as it was. -/
theorem unpackWritesTheFourChannels : Obligations.UnpackWritesTheFourChannels := by
  refine ⟨formatNCommand_of_format (i := .unpack) (fun _ => rfl) rfl, rfl, fun s => ?_⟩
  obtain ⟨ha, hb, hc, hm⟩ := unpack_toNat s.word
  exact ⟨_, exec_unpack s, ha, hb, hc, hm, rfl⟩

/-- Settles O19. -/
theorem packWritesWord : Obligations.PackWritesWord :=
  ⟨formatNCommand_of_format (i := .pack) (fun _ => rfl) rfl, rfl,
    fun s => ⟨_, exec_pack s, pack_toNat s.channels, rfl⟩⟩

end Sys2Proof.Machine
end

section
/-! The range of a channel, and the narrowing that both colour functions end with (42_color.md R131, R135, R139). -/

namespace Sys2Proof.Machine

/-- The integers a channel holds. -/
def InChannelRange (n : Int) : Prop := 0 ≤ n ∧ n ≤ 255

theorem inChannelRange_toNat (b : Byte) : InChannelRange b.toNat := ⟨by omega, by omega⟩

/-- In its range a result is narrowed without loss. -/
theorem toNat_ofInt_of_inChannelRange {n : Int} (h : InChannelRange n) : ((BitVec.ofInt 8 n).toNat : Int) = n := by
  obtain ⟨hlow, hhigh⟩ := h
  rw [BitVec.toNat_ofInt]
  omega

/-- Scaling a channel's number by another channel's, out of 255, stays below it. -/
theorem tdiv_mul_channel_le {n k : Int} (hn : 0 ≤ n) (hk : InChannelRange k) :
    0 ≤ Int.tdiv (n * k) 255 ∧ Int.tdiv (n * k) 255 ≤ n := by
  obtain ⟨hlow, hhigh⟩ := hk
  rw [Int.tdiv_eq_ediv_of_nonneg (mul_nonneg hn hlow)]
  exact ⟨Int.ediv_nonneg (mul_nonneg hn hlow) (by decide),
    Int.ediv_le_of_le_mul (by decide) (mul_le_mul_of_nonneg_left hhigh hn)⟩

end Sys2Proof.Machine
end

section
/-! RGB to HSV: value, delta, hue and saturation as integers with their ranges, and RGB2HSV (42_color.md R131 to R137,
R140). -/

namespace Sys2Proof.Machine

/-! ### Value and delta (R131) -/

theorem colourValue_inChannelRange {a b c : Int} (ha : InChannelRange a) (hb : InChannelRange b)
    (hc : InChannelRange c) : InChannelRange (colourValue a b c) := by
  unfold InChannelRange colourValue at *
  omega

theorem colourDelta_nonneg (a b c : Int) : 0 ≤ colourDelta a b c := by
  unfold colourDelta colourValue
  omega

theorem colourDelta_le_colourValue {a b c : Int} (ha : InChannelRange a) (hb : InChannelRange b)
    (hc : InChannelRange c) : colourDelta a b c ≤ colourValue a b c := by
  unfold InChannelRange colourDelta at *
  omega

/-- delta bounds the difference of any two channels. -/
theorem abs_difference_le_colourDelta (a b c : Int) : ∀ d ∈ [b - c, c - a, a - b], |d| ≤ colourDelta a b c := by
  simp only [List.forall_mem_cons, List.not_mem_nil, false_imp_iff, implies_true, and_true, abs_le, colourDelta,
    colourValue]
  omega

theorem colourDelta_gray (g : Int) : colourDelta g g g = 0 := by simp [colourDelta, colourValue]

/-! ### Hue (R132, R133, R136) -/

/-- A difference within delta has its term within [−255, 255]: truncating division is monotone, and exact at ±delta. -/
theorem tdiv_difference_bounds {d delta : Int} (hd : |d| ≤ delta) (h0 : delta ≠ 0) :
    -255 ≤ Int.tdiv (255 * d) delta ∧ Int.tdiv (255 * d) delta ≤ 255 := by
  obtain ⟨hlow, hhigh⟩ := abs_le.mp hd
  have hpos : 0 < delta := by omega
  have hmin : Int.tdiv (-255 * delta) delta ≤ Int.tdiv (255 * d) delta := Int.tdiv_le_tdiv hpos (by omega)
  have hmax : Int.tdiv (255 * d) delta ≤ Int.tdiv (255 * delta) delta := Int.tdiv_le_tdiv hpos (by omega)
  rw [Int.mul_tdiv_cancel _ h0] at hmin hmax
  exact ⟨hmin, hmax⟩

/-- Each branch turns its term by a third of 1530, so the three together lie in [−255, 1275]. -/
theorem hue6_bounds {a b c : Int} (h0 : colourDelta a b c ≠ 0) : -255 ≤ hue6 a b c ∧ hue6 a b c ≤ 1275 := by
  have hterm := fun d hd => tdiv_difference_bounds (abs_difference_le_colourDelta a b c d hd) h0
  have hA := hterm (b - c) (by simp)
  have hB := hterm (c - a) (by simp)
  have hC := hterm (a - b) (by simp)
  unfold hue6 hueA hueB hueC
  split_ifs <;> omega

theorem emod_1530_bounds (h6 : Int) : 0 ≤ Int.emod h6 1530 ∧ Int.emod h6 1530 ≤ 1529 :=
  ⟨Int.emod_nonneg h6 (by decide), Int.le_sub_one_of_lt (Int.emod_lt_of_pos h6 (by decide))⟩

/-- The last division of the hue is of a number that is not negative, so truncation is flooring. -/
theorem hueInt_eq (a b c : Int) :
    hueInt a b c = if colourDelta a b c = 0 then 0 else hue6 a b c % 1530 / 6 := by
  rw [hueInt, Int.tdiv_eq_ediv_of_nonneg (emod_1530_bounds _).1]
  rfl

/-- The hue never reaches 255. -/
theorem hueInt_bounds (a b c : Int) : 0 ≤ hueInt a b c ∧ hueInt a b c ≤ 254 := by
  rw [hueInt_eq]
  split_ifs <;> omega

theorem hueInt_inChannelRange (a b c : Int) : InChannelRange (hueInt a b c) := by
  obtain ⟨hlow, hhigh⟩ := hueInt_bounds a b c
  exact ⟨hlow, by omega⟩

theorem hueInt_gray (g : Int) : hueInt g g g = 0 := by rw [hueInt_eq, if_pos (colourDelta_gray g)]

/-! ### Saturation (R134, R136) -/

theorem satInt_eq (a b c : Int) : satInt a b c =
    if colourValue a b c = 0 then 0 else colourDelta a b c * 255 / colourValue a b c := by
  have hnonneg : 0 ≤ colourDelta a b c * 255 := mul_nonneg (colourDelta_nonneg a b c) (by decide)
  rw [satInt, Int.tdiv_eq_ediv_of_nonneg hnonneg, ite_not]

theorem satInt_inChannelRange {a b c : Int} (ha : InChannelRange a) (hb : InChannelRange b) (hc : InChannelRange c) :
    InChannelRange (satInt a b c) := by
  have hvalue := (colourValue_inChannelRange ha hb hc).1
  have hdelta := colourDelta_nonneg a b c
  have hle := colourDelta_le_colourValue ha hb hc
  rw [satInt_eq]
  split_ifs with h0
  · exact ⟨le_refl 0, by decide⟩
  · exact ⟨Int.ediv_nonneg (by omega) hvalue, Int.ediv_le_of_le_mul (by omega) (by omega)⟩

theorem satInt_gray (g : Int) : satInt g g g = 0 := by simp [satInt_eq, colourDelta_gray]

/-! ### The three results -/

theorem toNat_rgbToHsv_hue (a b c : Byte) :
    ((rgbToHsv a b c).1.toNat : Int) = hueInt a.toNat b.toNat c.toNat :=
  toNat_ofInt_of_inChannelRange (hueInt_inChannelRange _ _ _)

theorem toNat_rgbToHsv_sat (a b c : Byte) :
    ((rgbToHsv a b c).2.1.toNat : Int) = satInt a.toNat b.toNat c.toNat :=
  toNat_ofInt_of_inChannelRange
    (satInt_inChannelRange (inChannelRange_toNat a) (inChannelRange_toNat b) (inChannelRange_toNat c))

theorem toNat_rgbToHsv_value (a b c : Byte) :
    ((rgbToHsv a b c).2.2.toNat : Int) = colourValue a.toNat b.toNat c.toNat :=
  toNat_ofInt_of_inChannelRange
    (colourValue_inChannelRange (inChannelRange_toNat a) (inChannelRange_toNat b) (inChannelRange_toNat c))

theorem exec_rgb2hsv (s : State) : exec .rgb2hsv s = .next (s.setColour (rgbToHsv s.chA s.chB s.chC)) := rfl

/-- Settles O21: the narrowed results are the integers, whose divisions of numbers that are not negative floor. -/
theorem rgb2hsvComputesHueSaturationValue : Obligations.Rgb2hsvComputesHueSaturationValue := by
  refine ⟨formatNCommand_of_format (i := .rgb2hsv) (fun _ => rfl) rfl, rfl, fun s => ⟨_, exec_rgb2hsv s, rfl, ?_⟩⟩
  rintro A B C value delta h6 rfl rfl rfl rfl rfl rfl
  refine ⟨?hue, ?saturation, toNat_rgbToHsv_value _ _ _⟩
  case hue =>
    rw [State.setColour_chA, toNat_rgbToHsv_hue, hueInt_eq, hue6, hueA, add_zero]
    rfl
  case saturation =>
    rw [State.setColour_chB, toNat_rgbToHsv_sat, satInt_eq]
    rfl

/-- Settles O22. -/
theorem rgbToHsvBounds : Obligations.RgbToHsvBounds := by
  refine ⟨?_, 255, 0, 0, by decide⟩
  rintro a b c A B C delta rfl rfl rfl rfl
  have ha := inChannelRange_toNat a
  have hb := inChannelRange_toNat b
  have hc := inChannelRange_toNat c
  have hvalue := colourValue_inChannelRange ha hb hc
  have hdelta := colourDelta_nonneg a.toNat b.toNat c.toNat
  have hdelta' : colourDelta a.toNat b.toNat c.toNat ≤ 255 := (colourDelta_le_colourValue ha hb hc).trans hvalue.2
  refine ⟨fun d hd => ?differences, hue6_bounds, emod_1530_bounds _, hueInt_bounds _ _ _, by omega,
    satInt_inChannelRange ha hb hc, hvalue, ?hue⟩
  case differences =>
    have hle := abs_difference_le_colourDelta _ _ _ d hd
    refine ⟨hle, ?_, tdiv_difference_bounds hle⟩
    rw [abs_mul, abs_of_nonneg (by decide : (0 : Int) ≤ 255)]
    omega
  case hue =>
    have hhue := (hueInt_bounds a.toNat b.toNat c.toNat).2
    rw [← toNat_rgbToHsv_hue] at hhue
    exact_mod_cast hhue

/-! ### Ties for the value (R137) -/

/-- A difference of `sign` times delta has the term of `sign` times 255. -/
theorem tdiv_difference_of_eq_mul_delta {d delta : Int} (h0 : delta ≠ 0) (sign : Int) (hd : d = sign * delta) :
    Int.tdiv (255 * d) delta = 255 * sign := by
  rw [hd, ← mul_assoc, Int.mul_tdiv_cancel _ h0]

/-- Settles O23: when two channels tie for the value, the third is the least, so the differences of the two branches
are delta and −delta, and the terms 255 and −255 meet halfway between the offsets. -/
theorem hueTieBreakIsUnobservable : Obligations.HueTieBreakIsUnobservable := by
  intro a b c h0
  have hterm := fun d => tdiv_difference_of_eq_mul_delta (d := d) h0
  refine ⟨fun ha hb => ?ab, fun hb hc => ?bc, fun ha hc => ?ac⟩
  case ab =>
    have hmin : colourDelta a.toNat b.toNat c.toNat = b.toNat - c.toNat := by
      unfold colourDelta colourValue at *; omega
    rw [hueA, hueB, hterm _ 1 (by omega), hterm _ (-1) (by omega)]
    rfl
  case bc =>
    have hmin : colourDelta a.toNat b.toNat c.toNat = c.toNat - a.toNat := by
      unfold colourDelta colourValue at *; omega
    rw [hueB, hueC, hterm _ 1 (by omega), hterm _ (-1) (by omega)]
    rfl
  case ac =>
    have hmin : colourDelta a.toNat b.toNat c.toNat = a.toNat - b.toNat := by
      unfold colourDelta colourValue at *; omega
    rw [hueA, hueC, hterm _ (-1) (by omega), hterm _ 1 (by omega)]
    rfl

/-- A gray pixel has hue 0 and saturation 0 (R132, R134). -/
theorem rgbToHsv_gray (g : Byte) : rgbToHsv g g g = (0, 0, g) := by
  rw [rgbToHsv, hueInt_gray, satInt_gray, colourValue, max_self, max_self, BitVec.ofInt_natCast, BitVec.ofNat_toNat,
    BitVec.setWidth_eq]
  rfl

end Sys2Proof.Machine
end

section
/-! HSV to RGB: chroma, ramp and x with their ranges, the sector table, and HSV2RGB (42_color.md R138, R139, R141,
R142). -/

namespace Sys2Proof.Machine

/-! ### The intermediate values (R138) -/

theorem chromaInt_eq {s v : Int} (hs : 0 ≤ s) (hv : 0 ≤ v) : chromaInt s v = s * v / 255 :=
  Int.tdiv_eq_ediv_of_nonneg (mul_nonneg hs hv)

theorem chromaInt_bounds {s v : Int} (hs : InChannelRange s) (hv : 0 ≤ v) :
    0 ≤ chromaInt s v ∧ chromaInt s v ≤ v := by
  rw [chromaInt, mul_comm]
  exact tdiv_mul_channel_le hv hs

theorem chromaInt_zero_left (v : Int) : chromaInt 0 v = 0 := by simp [chromaInt]

theorem chromaInt_zero_right (s : Int) : chromaInt s 0 = 0 := by simp [chromaInt]

theorem rampInt_inChannelRange (h : Int) : InChannelRange (rampInt h) := by
  have hlow : 0 ≤ Int.emod (6 * h) 510 := Int.emod_nonneg _ (by decide)
  have hhigh : Int.emod (6 * h) 510 < 510 := Int.emod_lt_of_pos _ (by decide)
  have hdist : |Int.emod (6 * h) 510 - 255| ≤ 255 := abs_le.mpr ⟨by omega, by omega⟩
  exact ⟨sub_nonneg.mpr hdist, sub_le_self _ (abs_nonneg _)⟩

theorem xInt_eq {h s v : Int} (hchroma : 0 ≤ chromaInt s v) :
    xInt h s v = chromaInt s v * (255 - |6 * h % 510 - 255|) / 255 :=
  Int.tdiv_eq_ediv_of_nonneg (mul_nonneg hchroma (rampInt_inChannelRange h).1)

theorem xInt_bounds {h s v : Int} (hchroma : 0 ≤ chromaInt s v) : 0 ≤ xInt h s v ∧ xInt h s v ≤ chromaInt s v :=
  tdiv_mul_channel_le hchroma (rampInt_inChannelRange h)

/-! ### The sector table (R139) -/

/-- Every entry of the table is chroma, x or 0. -/
theorem sector_forall {P : Int → Prop} {chroma x : Int} (hchroma : P chroma) (hx : P x) (hzero : P 0) (h : Int) :
    P (sector h chroma x).1 ∧ P (sector h chroma x).2.1 ∧ P (sector h chroma x).2.2 := by
  unfold sector
  split_ifs <;> refine ⟨?_, ?_, ?_⟩ <;> assumption

/-- With `m` added every entry lies in [0, V] (R138). -/
theorem hsvToRgbInt_bounds {h s v : Int} (hs : InChannelRange s) (hv : 0 ≤ v) :
    (0 ≤ (hsvToRgbInt h s v).1 ∧ (hsvToRgbInt h s v).1 ≤ v) ∧
    (0 ≤ (hsvToRgbInt h s v).2.1 ∧ (hsvToRgbInt h s v).2.1 ≤ v) ∧
    (0 ≤ (hsvToRgbInt h s v).2.2 ∧ (hsvToRgbInt h s v).2.2 ≤ v) := by
  have hchroma := chromaInt_bounds hs hv
  have hx := xInt_bounds (h := h) hchroma.1
  exact sector_forall (P := fun n => 0 ≤ n + (v - chromaInt s v) ∧ n + (v - chromaInt s v) ≤ v)
    (by omega) (by omega) (by omega) h

/-- Without chroma every channel is the value. -/
theorem hsvToRgbInt_of_chromaInt_eq_zero {s v : Int} (h0 : chromaInt s v = 0) (h : Int) :
    hsvToRgbInt h s v = (v, v, v) := by
  have hx : xInt h s v = 0 := by simp [xInt, h0]
  obtain ⟨hr, hg, hb⟩ := sector_forall (P := (· = 0)) (chroma := 0) (x := 0) rfl rfl rfl h
  simp only [hsvToRgbInt, h0, hx, hr, hg, hb, zero_add, sub_zero]

/-- Hue 255 and hue 0 both have ramp 0, and the last bucket differs from the first only in where x stands (R142). -/
theorem hsvToRgbInt_hue_255 (s v : Int) : hsvToRgbInt 255 s v = hsvToRgbInt 0 s v := by
  have hx : ∀ h, rampInt h = 0 → xInt h s v = 0 := fun h hramp => by simp [xInt, hramp]
  rw [hsvToRgbInt, hsvToRgbInt, hx 255 (by decide), hx 0 (by decide)]
  rfl

/-! ### The three results -/

theorem toNat_hsvToRgb (h s v : Byte) :
    (((hsvToRgb h s v).1.toNat : Int), ((hsvToRgb h s v).2.1.toNat : Int), ((hsvToRgb h s v).2.2.toNat : Int)) =
      hsvToRgbInt h.toNat s.toNat v.toNat := by
  obtain ⟨hv0, hv⟩ := inChannelRange_toNat v
  have hnarrow : ∀ {n : Int}, 0 ≤ n ∧ n ≤ v.toNat → ((BitVec.ofInt 8 n).toNat : Int) = n := fun hn =>
    toNat_ofInt_of_inChannelRange ⟨hn.1, hn.2.trans hv⟩
  obtain ⟨hr, hg, hb⟩ := hsvToRgbInt_bounds (h := h.toNat) (inChannelRange_toNat s) hv0
  exact Prod.ext (hnarrow hr) (Prod.ext (hnarrow hg) (hnarrow hb))

theorem hsvToRgb_of_chromaInt_eq_zero {s v : Byte} (h0 : chromaInt s.toNat v.toNat = 0) (h : Byte) :
    hsvToRgb h s v = (v, v, v) := by
  simp only [hsvToRgb, hsvToRgbInt_of_chromaInt_eq_zero h0, BitVec.ofInt_natCast, BitVec.ofNat_toNat,
    BitVec.setWidth_eq]

/-- S = 0 is gray (R142). -/
theorem hsvToRgb_sat_zero (h v : Byte) : hsvToRgb h 0 v = (v, v, v) :=
  hsvToRgb_of_chromaInt_eq_zero (s := 0) (chromaInt_zero_left _) h

/-- V = 0 is black (R142). -/
theorem hsvToRgb_value_zero (h s : Byte) : hsvToRgb h s 0 = (0, 0, 0) :=
  hsvToRgb_of_chromaInt_eq_zero (v := 0) (chromaInt_zero_right _) h

theorem exec_hsv2rgb (s : State) : exec .hsv2rgb s = .next (s.setColour (hsvToRgb s.chA s.chB s.chC)) := rfl

/-- Settles O24: the narrowed results are the integers, bucket by bucket. -/
theorem hsv2rgbComputesTheSector : Obligations.Hsv2rgbComputesTheSector := by
  refine ⟨formatNCommand_of_format (i := .hsv2rgb) (fun _ => rfl) rfl, rfl, fun s => ⟨_, exec_hsv2rgb s, rfl, ?_⟩⟩
  rintro H S V chroma x m rfl rfl rfl hchroma hx rfl
  have hS := inChannelRange_toNat s.chB
  have hV := (inChannelRange_toNat s.chC).1
  rw [← chromaInt_eq hS.1 hV] at hchroma
  rw [hchroma, ← xInt_eq (chromaInt_bounds hS hV).1] at hx
  rw [State.setColour_chA, State.setColour_chB, State.setColour_chC, toNat_hsvToRgb, hsvToRgbInt, sector, hchroma, hx]
  split_ifs <;> rfl

/-- Settles O25. -/
theorem hsvToRgbBoundsAndCorners : Obligations.HsvToRgbBoundsAndCorners := by
  refine ⟨fun h s v => ?bounds, fun s v => ?hue255, hsvToRgb_sat_zero, hsvToRgb_value_zero⟩
  case bounds =>
    obtain ⟨hr, hg, hb⟩ :=
      hsvToRgbInt_bounds (h := h.toNat) (inChannelRange_toNat s) (inChannelRange_toNat v).1
    rw [← toNat_hsvToRgb] at hr hg hb
    exact ⟨Int.ofNat_le.mp hr.2, Int.ofNat_le.mp hg.2, Int.ofNat_le.mp hb.2⟩
  case hue255 =>
    have hhue : hsvToRgbInt (0xFF#8).toNat s.toNat v.toNat = hsvToRgbInt (0x00#8).toNat s.toNat v.toNat :=
      hsvToRgbInt_hue_255 _ _
    rw [hsvToRgb, hsvToRgb, hhue]

/-- Settles O26: a gray pixel has saturation 0, and saturation 0 gives the value in every channel. -/
theorem grayConvertsExactly : Obligations.GrayConvertsExactly := by
  intro g
  rw [rgbToHsv_gray]
  exact ⟨rfl, hsvToRgb_sat_zero 0 g⟩

end Sys2Proof.Machine
end

section
/-! Words of format S (30_encoding.md R76, R81). -/

namespace Sys2Proof

/-- A word of a format S opcode that is the word of neither colour space has a reserved bit set. -/
theorem formatS_eq_error {w : Word} {o : Byte} (ho : opcField w = o) (hne : ∀ sp, w ≠ o ++ 0#23 ++ spBit sp)
    (mk : Space → Instr) : formatS w mk = .error .reservedBits :=
  if_neg fun hz => hne (spField w) (eq_opcode_append_spBit_iff.mpr ⟨ho, hz, spField_eq_iff.mp rfl⟩)

theorem decode_construct_reserved {w : Word} (ho : opcField w = 0x10#8) (hne : ∀ sp, w ≠ encode (.construct sp)) :
    decode w = .error .reservedBits := by
  rw [decode_of_opcode (i := .construct .rgb) ho]
  exact formatS_eq_error ho hne .construct

end Sys2Proof
end

section
/-! The image store: CONSTRUCT, GET, SET and ACCESS (43_image.md R155 to R160). GET, SET and ACCESS differ in when a callback
point blocks them and in their effect only, so their checks are gone through once. -/

namespace Sys2Proof.Machine

/-! ### What each check answers -/

theorem State.busyCheck_of_active {s : State} (h : s.trav.active = true) :
    s.busyCheck = (true, .callbackViolation) := by rw [State.busyCheck, h]

theorem State.busyCheck_of_idle {s : State} (h : s.trav.active = false) :
    s.busyCheck = (false, .callbackViolation) := by rw [State.busyCheck, h]

theorem State.borrowCheck_of_readBlocked {s : State} (h : s.readBlocked) :
    s.borrowCheck = (true, .callbackViolation) := by
  obtain ⟨hactive, hmode⟩ := h
  rw [State.borrowCheck, hactive, decide_eq_true hmode, Bool.and_self]

theorem State.borrowCheck_of_not_readBlocked {s : State} (h : ¬ s.readBlocked) :
    s.borrowCheck = (false, .callbackViolation) := by
  have hbad : (s.trav.active && decide (s.trav.mode ≠ .foreachBor)) = false := by
    rw [← Bool.not_eq_true, Bool.and_eq_true, decide_eq_true_eq]
    exact h
  rw [State.borrowCheck, hbad]

theorem State.imageCheck_of_no_image {s : State} (h : s.constructed = false) :
    s.imageCheck = (true, .notConstructed) := by rw [State.imageCheck, h, Bool.not_false]

theorem State.imageCheck_of_constructed {s : State} (h : s.constructed = true) :
    s.imageCheck = (false, .notConstructed) := by rw [State.imageCheck, h, Bool.not_true]

/-- `InImage(X, Y)` compares the registers themselves (43_image.md R160). -/
theorem State.inImage_coord_iff {s : State} :
    s.inImage s.coord = true ↔ s.x.toNat < s.width.toNat ∧ s.y.toNat < s.height.toNat := by
  rw [State.inImage, Bool.and_eq_true, decide_eq_true_eq, decide_eq_true_eq]
  rfl

theorem State.inImageCheck_of_outside {s : State} (h : ¬ (s.x.toNat < s.width.toNat ∧ s.y.toNat < s.height.toNat)) :
    s.inImageCheck s.coord = (true, .coordRange) := by
  rw [State.inImageCheck, Bool.eq_false_iff.mpr (mt State.inImage_coord_iff.mp h), Bool.not_false]

theorem State.inImageCheck_of_inside {s : State} (hx : s.x.toNat < s.width.toNat) (hy : s.y.toNat < s.height.toNat) :
    s.inImageCheck s.coord = (false, .coordRange) := by
  rw [State.inImageCheck, State.inImage_coord_iff.mpr ⟨hx, hy⟩, Bool.not_true]

/-! ### CONSTRUCT -/

/-- Settles O27: the first failing check decides, the boundary of the capacity included; with none, no byte of the image's
words is left in the store. -/
theorem constructZeroFillsTheImage : Obligations.ConstructZeroFillsTheImage := by
  refine ⟨rfl, rfl, fun w ho hrgb hhsv => ?words, fun sp s => ?checks⟩
  case words =>
    refine decode_construct_reserved ho fun sp => ?_
    cases sp with
    | rgb => exact hrgb
    | hsv => exact hhsv
  case checks =>
    rw [exec_of_ne_hostDone (i := .construct sp) nofun, commandChecks]
    refine ⟨fun ha => ?busy, fun ha hc => ?again, fun ha hc hbig => ?capacity, fun ha hc hfit => ?effect⟩
    case busy => simp [State.busyCheck_of_active ha]
    case again => simp [State.busyCheck_of_idle ha, hc]
    case capacity =>
      have hbad : s.capacity.toNat < s.area := hbig
      simp [State.busyCheck_of_idle ha, hc, hbad]
    case effect =>
      have hgood : ¬ s.capacity.toNat < s.area := Nat.not_lt.mpr hfit
      refine ⟨commandEffect (.construct sp) s, ?_, rfl, fun i hi => ?zero, fun b hb => ?frame⟩
      · simp [State.busyCheck_of_idle ha, hc, hgood]
      case zero => exact Memory.readWord_zeroWords_of_lt s.store hi
      case frame => exact (Memory.readByte_zeroWords s.store s.area b).trans (if_pos hb)

/-! ### The commands on one cell -/

/-- A command on the cell (X, Y) checks the callback point, then the image, then the coordinate, and then has its effect
(43_image.md R157 to R160). -/
theorem cellCommand_checks_in_order {i : Instr} {s : State} {check : Bool × ErrCode} {blocked free : Prop}
    (hne : i ≠ .hostDone) (hcs : commandChecks i s = [check, s.imageCheck, s.inImageCheck s.coord])
    (hblocked : blocked → check = (true, .callbackViolation)) (hfree : free → check = (false, .callbackViolation)) :
    (blocked → exec i s = .next (s.raise .callbackViolation)) ∧
    (free → s.constructed = false → exec i s = .next (s.raise .notConstructed)) ∧
    (free → s.constructed = true → ¬ (s.x.toNat < s.width.toNat ∧ s.y.toNat < s.height.toNat) →
      exec i s = .next (s.raise .coordRange)) ∧
    (free → s.constructed = true → s.x.toNat < s.width.toNat → s.y.toNat < s.height.toNat →
      exec i s = .next (commandEffect i s)) := by
  rw [exec_of_ne_hostDone hne, hcs]
  refine ⟨fun hb => ?_, fun hf hc => ?_, fun hf hc hout => ?_, fun hf hc hx hy => ?_⟩
  · simp [hblocked hb]
  · simp [hfree hf, State.imageCheck_of_no_image hc]
  · simp [hfree hf, State.imageCheck_of_constructed hc, State.inImageCheck_of_outside hout]
  · simp [hfree hf, State.imageCheck_of_constructed hc, State.inImageCheck_of_inside hx hy]

/-- Settles O28. -/
theorem getReadsTheCell : Obligations.GetReadsTheCell :=
  ⟨formatNCommand_of_format (i := .get) (fun _ => rfl) rfl, rfl, fun _ =>
    cellCommand_checks_in_order (i := .get) nofun rfl State.borrowCheck_of_readBlocked
      State.borrowCheck_of_not_readBlocked⟩

/-- Settles O29: the effect is one word write at the cell's index. -/
theorem setWritesTheCell : Obligations.SetWritesTheCell := by
  refine ⟨formatNCommand_of_format (i := .set) (fun _ => rfl) rfl, rfl, fun s => ?_⟩
  obtain ⟨hbusy, himage, hcoord, heffect⟩ := cellCommand_checks_in_order (i := .set) (s := s) nofun rfl
    State.busyCheck_of_active State.busyCheck_of_idle
  exact ⟨hbusy, himage, hcoord, fun ha hc hx hy =>
    ⟨_, heffect ha hc hx hy, rfl, Memory.readWord_writeWord_same _ _ _,
      fun _ hb => Memory.readByte_writeWord_of_ne _ _ hb⟩⟩

/-- Unpacking a word reads its four lanes (41_codec.md R115). -/
theorem unpack_eq_lanes (w : Word) :
    unpack w = ⟨w.extractLsb' 24 8, w.extractLsb' 16 8, w.extractLsb' 8 8, w.extractLsb' 0 8⟩ := by
  rw [← unpack_append, word_eq_lanes]

/-- Settles O30: the colour lanes of the cell's word go to the colour registers. -/
theorem accessReadsTheColour : Obligations.AccessReadsTheColour := by
  refine ⟨formatNCommand_of_format (i := .access) (fun _ => rfl) rfl, rfl, fun s => ?_⟩
  obtain ⟨hblocked, himage, hcoord, heffect⟩ := cellCommand_checks_in_order (i := .access) (s := s) nofun rfl
    State.borrowCheck_of_readBlocked State.borrowCheck_of_not_readBlocked
  have hlanes := unpack_eq_lanes (s.pix s.coord)
  exact ⟨hblocked, himage, hcoord, fun hf hc hx hy =>
    ⟨_, heffect hf hc hx hy, rfl, congrArg Pixel.a hlanes, congrArg Pixel.b hlanes, congrArg Pixel.c hlanes⟩⟩

/-- Settles O31: SET changes the store only, so GET passes its checks, and it reads the very word SET wrote. -/
theorem getAfterSetReadsWord : Obligations.GetAfterSetReadsWord := by
  intro s t u hc ha hx hy v hset hget
  obtain ⟨-, -, hsetSpec⟩ := setWritesTheCell
  obtain ⟨-, -, -, hsetEffect⟩ := hsetSpec s
  obtain ⟨t', hset', hframe, hword, -⟩ := hsetEffect ha hc hx hy
  obtain rfl : t = t' := Host.Outcome.next.inj (hset.symm.trans hset')
  obtain ⟨store', rfl⟩ : ∃ store', t = { s with store := store' } := ⟨_, hframe⟩
  obtain ⟨-, -, hgetSpec⟩ := getReadsTheCell
  obtain ⟨-, -, -, hgetEffect⟩ := hgetSpec { s with store := store', word := v }
  have hfree : ¬ State.readBlocked { s with store := store', word := v } := fun ⟨hactive, _⟩ =>
    Bool.false_ne_true (ha.symm.trans hactive)
  rw [Host.Outcome.next.inj (hget.symm.trans (hgetEffect hfree hc hx hy)), hword]

end Sys2Proof.Machine
end

section
/-! The visited cells: the set V(b) in row-major order, each once, and how many there are (44_traversal.md R171, R174). -/

namespace Sys2Proof.Machine

/-- Row-major order: by y, and within one y by x (44_traversal.md R171). -/
theorem rowMajor_pairwise (w h b : Nat) :
    (rowMajor w h b).Pairwise (fun p q => p.y < q.y ∨ (p.y = q.y ∧ p.x < q.x)) := by
  refine List.pairwise_flatMap.mpr ⟨fun y _ => ?row, ?rows⟩
  case row => exact List.pairwise_map.mpr ((List.pairwise_lt_range' _).imp fun hx => .inr ⟨rfl, hx⟩)
  case rows =>
    refine (List.pairwise_lt_range' _).imp fun hy p hp q hq => .inl ?_
    obtain ⟨_, _, rfl⟩ := List.mem_map.mp hp
    obtain ⟨_, _, rfl⟩ := List.mem_map.mp hq
    exact hy

/-- As many rows as V(b) is high, each as long as V(b) is wide (44_traversal.md R174). -/
theorem rowMajor_length (w h b : Nat) : (rowMajor w h b).length = (w - 2 * b) * (h - 2 * b) := by
  simp [rowMajor, List.length_flatMap, Nat.mul_comm]

/-- Settles O32. -/
theorem visitedCellsAreRowMajor : Obligations.VisitedCellsAreRowMajor := by
  refine fun s b => ⟨fun p => ?bounds, rowMajor_pairwise _ _ _, s.visited_nodup b, fun p => ?all⟩
  case bounds =>
    rw [State.mem_visited]
    omega
  case all => rw [State.mem_visited_zero, State.inImage, Bool.and_eq_true, decide_eq_true_eq, decide_eq_true_eq]

/-- Settles O33: a length truncated at 0 is the maximum of 0 and the integer difference. -/
theorem visitCountIsTheMaxProduct : Obligations.VisitCountIsTheMaxProduct := by
  intro s b
  have side (n : Nat) : ((n - 2 * b : Nat) : Int) = max 0 ((n : Int) - 2 * b) := by omega
  rw [State.visited, rowMajor_length, Nat.cast_mul, side, side]

/-- The first visited cell is the corner (b, b) (44_traversal.md R177). -/
theorem State.visited_eq_cons {s : State} {b : Nat} (hw : 2 * b < s.width.toNat) (hh : 2 * b < s.height.toNat) :
    ∃ ps, s.visited b = ⟨b, b⟩ :: ps := by
  obtain ⟨m, hm⟩ := Nat.exists_eq_add_of_lt (Nat.sub_pos_of_lt hw)
  obtain ⟨n, hn⟩ := Nat.exists_eq_add_of_lt (Nat.sub_pos_of_lt hh)
  rw [State.visited, rowMajor, hm, hn]
  exact ⟨_, rfl⟩

end Sys2Proof.Machine
end

section
/-! Traversals with a built-in kernel, and CONVERT (44_traversal.md R173, R175, R176, R181 to R183). -/

namespace Sys2Proof.Machine

/-! ### The built-in kernels (R173) -/

theorem kernelRgb2hsv_append (a b c m : Byte) :
    kernelRgb2hsv (a ++ b ++ c ++ m) = (rgbToHsv a b c).1 ++ (rgbToHsv a b c).2.1 ++ (rgbToHsv a b c).2.2 ++ m := by
  rw [kernelRgb2hsv, unpack_append, pack_eq_append]

theorem kernelHsv2rgb_append (a b c m : Byte) :
    kernelHsv2rgb (a ++ b ++ c ++ m) = (hsvToRgb a b c).1 ++ (hsvToRgb a b c).2.1 ++ (hsvToRgb a b c).2.2 ++ m := by
  rw [kernelHsv2rgb, unpack_append, pack_eq_append]

/-! ### One traversal with a built-in kernel (R176) -/

/-- Each visited cell's word becomes the kernel of the word it held. -/
theorem State.pix_traverseBuiltin {s : State} {b : Nat} {p : Coord} (f : Word → Word) (hp : s.visits b p) :
    (s.traverseBuiltin f b).pix p = f (s.pix p) :=
  State.pix_mapCells_of_mem (fun _ => f) (State.mem_visited.mpr hp)

/-- The bytes outside the visited cells stay. -/
theorem State.readByte_traverseBuiltin {s : State} {b a : Nat} (f : Word → Word)
    (ha : ∀ p, s.visits b p → s.cellIndex p ≠ a / 4) :
    (s.traverseBuiltin f b).store.readByte a = s.store.readByte a :=
  State.readByte_mapCells_of_not_mem (fun _ => f) fun p hp => ha p (State.mem_visited.mp hp)

/-- A traversal command runs its traversal when no other is suspended and an image exists (R175, R181, R182). -/
theorem exec_traversal_of_ready {i : Instr} {md : TravMode} {k : Byte} {b : Nat} {s : State}
    (hi : traversalOf i = some (md, k, b)) (hk : k.toNat ≤ 2) (ha : s.trav.active = false)
    (hc : s.constructed = true) : exec i s = .next (s.traverseField md k b) := by
  rw [exec_of_traversalOf hi, State.traversalCommand_of_defined hk, State.busyCheck_of_idle ha,
    State.imageCheck_of_constructed hc]
  rfl

/-- Settles O35: one case for each built-in kernel. -/
theorem builtinTraversalConvertsVisitedCells : Obligations.BuiltinTraversalConvertsVisitedCells := by
  intro i md k b s hi hk ha hc
  rcases hk with rfl | rfl
  · refine ⟨s.traverseBuiltin kernelRgb2hsv b, exec_traversal_of_ready hi (by decide) ha hc, rfl,
      fun p hp A B C M hpix => ⟨fun _ => ?_, nofun⟩, fun a hout => State.readByte_traverseBuiltin _ hout⟩
    rw [State.pix_traverseBuiltin _ hp, hpix, kernelRgb2hsv_append]
  · refine ⟨s.traverseBuiltin kernelHsv2rgb b, exec_traversal_of_ready hi (by decide) ha hc, rfl,
      fun p hp A B C M hpix => ⟨nofun, fun _ => ?_⟩, fun a hout => State.readByte_traverseBuiltin _ hout⟩
    rw [State.pix_traverseBuiltin _ hp, hpix, kernelHsv2rgb_append]

/-! ### CONVERT (R183) -/

theorem decode_convert_reserved {w : Word} (ho : opcField w = 0x23#8) (hne : ∀ sp, w ≠ encode (.convert sp)) :
    decode w = .error .reservedBits := by
  rw [decode_of_opcode (i := .convert .rgb) ho]
  exact formatS_eq_error ho hne .convert

/-- CONVERT has its effect when no traversal is suspended and an image exists. -/
theorem exec_convert_of_ready {s : State} {sp : Space} (ha : s.trav.active = false) (hc : s.constructed = true) :
    exec (.convert sp) s = .next (s.convertTo sp) := by
  rw [exec_of_ne_hostDone (i := .convert sp) nofun, commandChecks, State.busyCheck_of_idle ha,
    State.imageCheck_of_constructed hc]
  rfl

/-- The bytes from the end of the image on stay: every cell's word lies before them. -/
theorem State.readByte_traverseBuiltin_of_outside {s : State} {a : Nat} (f : Word → Word)
    (ha : 4 * (s.width.toNat * s.height.toNat) ≤ a) :
    (s.traverseBuiltin f 0).store.readByte a = s.store.readByte a := by
  refine State.readByte_traverseBuiltin f fun p hp hidx => ?_
  have hlt := State.cellIndex_lt_area (State.inImage_of_mem_visited (State.mem_visited.mpr hp))
  omega

/-- Settles O38: the first failing check decides; with none, the tag decides between no effect and the traversal. -/
theorem convertConvertsTheImage : Obligations.ConvertConvertsTheImage := by
  refine ⟨rfl, rfl, fun w ho hrgb hhsv => ?words, fun sp s =>
    ⟨fun ha => ?busy, fun ha hc => ?noImage, fun ha hc hsp => ?same, fun ha hc hsp => ?effect⟩⟩
  case words =>
    refine decode_convert_reserved ho fun sp => ?_
    cases sp with
    | rgb => exact hrgb
    | hsv => exact hhsv
  case busy => simp [exec_of_ne_hostDone, commandChecks, State.busyCheck_of_active ha]
  case noImage =>
    simp [exec_of_ne_hostDone, commandChecks, State.busyCheck_of_idle ha, State.imageCheck_of_no_image hc]
  case same => rw [exec_convert_of_ready ha hc, State.convertTo_of_eq hsp]
  case effect =>
    refine ⟨{ s.traverseBuiltin (convertKernel sp) 0 with space := sp }, ?_, rfl, fun p hp A B C M hpix => ?cell,
      fun a hout => State.readByte_traverseBuiltin_of_outside _ hout⟩
    · rw [exec_convert_of_ready ha hc, State.convertTo_of_ne hsp]
    case cell =>
      have hcell := State.pix_traverseBuiltin (convertKernel sp) hp
      rw [hpix] at hcell
      cases sp with
      | hsv => exact ⟨fun _ => hcell.trans (kernelRgb2hsv_append A B C M), nofun⟩
      | rgb => exact ⟨nofun, fun _ => hcell.trans (kernelHsv2rgb_append A B C M)⟩

end Sys2Proof.Machine
end

section
/-! The HOST kernel: a traversal suspends at its first cell, and each HOST_DONE writes the cell at the callback point and
moves on, so a traversal takes one HOST_DONE for each cell left (44_traversal.md R177 to R179, R184). -/

namespace Sys2Proof.Machine

/-! ### Presenting a cell (R177) -/

/-- The channels hold the presented cell's word, lane by lane. -/
theorem State.present_channels (p : Coord) (s : State) :
    (s.present p).chA ++ (s.present p).chB ++ (s.present p).chC ++ (s.present p).chM = s.pix p :=
  (pack_eq_append _ _ _ _).symm.trans (pack_unpack (s.pix p))

/-- Settles O36: V(b) is not empty and its first cell is (b, b). -/
theorem hostTraversalSuspendsAtTheFirstCell : Obligations.HostTraversalSuspendsAtTheFirstCell := by
  intro i md b s hi ha hc hw hh
  obtain ⟨ps, hps⟩ := State.visited_eq_cons hw hh
  have hcoord : (BitVec.ofNat 16 b).toNat = b := by
    have hwidth := s.width.isLt
    rw [BitVec.toNat_ofNat]
    omega
  refine ⟨State.present ⟨b, b⟩ { s with trav := ⟨true, md, s.visited b, 0⟩ }, ?_, rfl, hcoord, hcoord,
    State.present_channels _ _, rfl⟩
  rw [exec_traversal_of_ready hi (by decide) ha hc, hps]
  exact congrArg Host.Outcome.next (State.traverseHost_of_cons hps md)

/-! ### HOST_DONE (R179) -/

theorem State.cellDefined_of_visits {s : State} {p : Coord} (hc : s.constructed = true) (hp : s.visits 0 p) :
    s.cellDefined p = true := by
  rw [State.cellDefined, hc, State.inImage_of_mem_visited (State.mem_visited.mpr hp), Bool.and_self]

/-- The pack-write of HOST_DONE leaves the channels, lane by lane, in the cell. -/
theorem State.pix_setPix_channels (s : State) (p : Coord) :
    (s.setPix p (pack s.channels)).pix p = s.chA ++ s.chB ++ s.chC ++ s.chM :=
  (Memory.readWord_writeWord_same _ _ _).trans (pack_eq_append _ _ _ _)

/-- Settles O37: the three cases of HOST_DONE that R179 gives. -/
theorem hostDoneWritesTheCellAndMovesOn : Obligations.HostDoneWritesTheCellAndMovesOn := by
  refine ⟨formatNCommand_of_format (i := .hostDone) (fun _ => rfl) rfl, rfl, fun s =>
    ⟨execHostDone_of_idle, fun p ha hc hp hvis => ⟨fun q hq hvis' => ?more, fun hlast => ?last⟩⟩⟩
  case more =>
    exact ⟨_, execHostDone_of_more ha hp (State.cellDefined_of_visits hc hvis) hq (State.cellDefined_of_visits hc hvis'),
      s.pix_setPix_channels p, fun _ hout => Memory.readByte_writeWord_of_ne _ _ hout, State.present_channels _ _, rfl⟩
  case last =>
    exact ⟨_, execHostDone_of_last ha hp (State.cellDefined_of_visits hc hvis) (List.getElem?_eq_none hlast.ge),
      s.pix_setPix_channels p, fun _ hout => Memory.readByte_writeWord_of_ne _ _ hout, rfl⟩

/-! ### One HOST_DONE for each cell that is left (R184) -/

/-- A suspended traversal has a cell left. -/
theorem Inv.index_lt {s : State} (h : Inv s) (ha : s.trav.active = true) : s.trav.index < s.trav.cells.length := by
  obtain ⟨p, hp, -, -⟩ := h.at_cell ha
  exact (List.getElem?_eq_some_iff.mp hp).1

/-- In a suspended traversal of the invariant HOST_DONE always writes its cell. -/
theorem exec_hostDone_of_active {s : State} (h : Inv s) (ha : s.trav.active = true) :
    exec .hostDone s = .next s.finishCell := by
  obtain ⟨t, ht⟩ := exec_completes h .hostDone
  have hform := eq_guarded_of_exec ht
  rw [commandChecks, guarded_cons, ha, Bool.not_true, if_neg Bool.false_ne_true] at hform
  rw [ht, hform]
  rfl

theorem State.finishCell_of_last {s : State} {p : Coord} (hp : s.trav.cells[s.trav.index]? = some p)
    (hlast : s.trav.index + 1 = s.trav.cells.length) :
    s.finishCell = (s.setPix p (pack s.channels)).endTraversal := by
  rw [State.finishCell, hp, List.getElem?_eq_none hlast.ge]

theorem State.finishCell_of_more {s : State} {p : Coord} (hp : s.trav.cells[s.trav.index]? = some p)
    (hmore : s.trav.index + 1 < s.trav.cells.length) :
    s.finishCell = State.present s.trav.cells[s.trav.index + 1]
      { s.setPix p (pack s.channels) with trav := { s.trav with index := s.trav.index + 1 } } := by
  rw [State.finishCell, hp, List.getElem?_eq_getElem hmore]

theorem Inv.finishCell_trav_of_last {s : State} (h : Inv s) (ha : s.trav.active = true)
    (hlast : s.trav.index + 1 = s.trav.cells.length) : s.finishCell.trav = ⟨false, .foreach, [], 0⟩ := by
  obtain ⟨p, hp, -, -⟩ := h.at_cell ha
  rw [State.finishCell_of_last hp hlast, State.endTraversal_trav]

theorem Inv.finishCell_trav_of_more {s : State} (h : Inv s) (ha : s.trav.active = true)
    (hmore : s.trav.index + 1 < s.trav.cells.length) :
    s.finishCell.trav = { s.trav with index := s.trav.index + 1 } := by
  obtain ⟨p, hp, -, -⟩ := h.at_cell ha
  rw [State.finishCell_of_more hp hmore, State.present_trav]

/-- HOST_DONE changes no byte outside the words of the traversal's cells. -/
theorem State.finishCell_readByte {s : State} {a : Nat} (hout : ∀ p ∈ s.trav.cells, s.cellIndex p ≠ a / 4) :
    s.finishCell.store.readByte a = s.store.readByte a := by
  unfold State.finishCell
  cases hp : s.trav.cells[s.trav.index]? with
  | none => rfl
  | some p =>
    have hkept : (s.setPix p (pack s.channels)).store.readByte a = s.store.readByte a :=
      Memory.readByte_writeWord_of_ne _ _ (hout p (List.mem_of_getElem? hp)).symm
    cases s.trav.cells[s.trav.index + 1]? <;> exact hkept

/-- HOST_DONE works on the device, not on the accesses still pending. -/
theorem State.finishCell_withBus (s : State) (bus : List HostEvent) :
    State.finishCell { s with bus := bus } = { s.finishCell with bus := bus } := by
  unfold State.finishCell
  cases s.trav.cells[s.trav.index]? with
  | none => rfl
  | some p => cases s.trav.cells[s.trav.index + 1]? <;> rfl

/-- A run begins with its first step. -/
theorem run_succ_of_step {s t : State} (h : step s = .next t) (k : Nat) :
    Host.Core.run Sys2Proof.core (k + 1) s = Host.Core.run Sys2Proof.core k t := by
  have hstep : Sys2Proof.core.step s = .next t := h
  simp only [Host.Core.run, hstep]

/-- The first of `k + 1` HOST_DONEs on the bus finishes the current cell. -/
theorem run_hostDone_succ {s : State} (h : Inv s) (hf : s.fault = false) (ha : s.trav.active = true) (k : Nat) :
    Host.Core.run Sys2Proof.core (k + 1) { s with bus := List.replicate (k + 1) (hostCmd .hostDone) } =
      Host.Core.run Sys2Proof.core k { s.finishCell with bus := List.replicate k (hostCmd .hostDone) } := by
  obtain ⟨hrun, -⟩ := stepRunsTheDecodedCommand { s with bus := List.replicate (k + 1) (hostCmd .hostDone) } _ _ hf rfl
  refine run_succ_of_step ?_ k
  rw [hrun .hostDone (decodeOfEncode .hostDone rfl), ← State.finishCell_withBus]
  exact exec_hostDone_of_active (h.withBus _) ha

/-- Settles O39, by induction on the number of HOST_DONEs: before the last cell each moves on and the invariant holds again;
at the last cell there is no further one. -/
theorem traversalTakesOneHostDonePerCell : Obligations.TraversalTakesOneHostDonePerCell := by
  intro s h hf ha k hk
  induction k generalizing s with
  | zero => exact ⟨_, rfl, rfl, hf, fun _ => rfl, fun hend => absurd hend (h.index_lt ha).ne, fun _ _ => rfl⟩
  | succ k ih =>
    have hfault : s.finishCell.fault = false := by rw [State.finishCell_frame]; exact hf
    rw [run_hostDone_succ h hf ha]
    by_cases hlast : s.trav.index + 1 = s.trav.cells.length
    · obtain rfl : k = 0 := by omega
      exact ⟨_, rfl, rfl, hfault, fun hmore => absurd hlast hmore.ne, fun _ => h.finishCell_trav_of_last ha hlast,
        fun _ hout => State.finishCell_readByte hout⟩
    · have htrav := h.finishCell_trav_of_more ha (by omega)
      have hwidth : s.finishCell.width = s.width := by rw [State.finishCell_frame]; rfl
      have hcount : s.trav.index + 1 + k = s.trav.index + (k + 1) := by omega
      obtain ⟨t, hrun, hbus, htf, hon, hend, hbytes⟩ :=
        ih s.finishCell (h.finishCell ha) hfault (by rw [htrav]; exact ha) (by rw [htrav]; simp only; omega)
      simp only [htrav, hcount] at hon hend hbytes
      refine ⟨t, hrun, hbus, htf, hon, hend, fun a hout => ?_⟩
      have hout' : ∀ p ∈ s.trav.cells, s.finishCell.cellIndex p ≠ a / 4 := fun p hp => by
        rw [State.cellIndex_congr hwidth]
        exact hout p hp
      exact (hbytes a hout').trans (State.finishCell_readByte hout)

end Sys2Proof.Machine
end

section
/-! Callback points: which commands run there (44_traversal.md R180). -/

namespace Sys2Proof.Machine

/-- At a callback point CALLBACK_VIOLATION is the first check that a command fails that is not permitted there. -/
theorem commandChecks_of_not_permitted {i : Instr} {s : State} (hwf : i.wellFormed = true)
    (ha : s.trav.active = true) (hi : permittedAtCallback i s.trav.mode = false) (k : State) :
    guarded (commandChecks i s) s k = s.raise .callbackViolation := by
  cases i with
  | nop | unpack | pack | rgb2hsv | hsv2rgb | hostDone => cases hi
  | get | access | checkadj _ _ =>
    simp [commandChecks, State.borrowCheck_of_readBlocked ⟨ha, of_decide_eq_false hi⟩]
  | foreach _ | foreachIdx _ _ | foreachBor _ _ =>
    simp [commandChecks, kernelCheck_of_defined hwf, State.busyCheck_of_active ha]
  | set | construct _ | convert _ | erode _ _ | dilate _ => simp [commandChecks, State.busyCheck_of_active ha]

/-- A check that a permitted command fails at a callback point names another fault. -/
theorem commandChecks_of_permitted {i : Instr} {s : State} (ha : s.trav.active = true)
    (hi : permittedAtCallback i s.trav.mode = true) :
    ∀ c ∈ commandChecks i s, c.1 = true → c.2 ≠ .callbackViolation := by
  cases i with
  | nop | unpack | pack | rgb2hsv | hsv2rgb => exact nofun
  | hostDone => simp [commandChecks, ha]
  | get | access | checkadj _ _ =>
    have hfree : ¬ s.readBlocked := fun hb => hb.2 (of_decide_eq_true hi)
    simp [commandChecks, State.borrowCheck_of_not_readBlocked hfree, State.imageCheck, State.inImageCheck,
      State.interiorCheck]
  | set | construct _ | foreach _ | foreachIdx _ _ | foreachBor _ _ | convert _ | erode _ _ | dilate _ => cases hi

/-- Settles O48: the effect of a command writes no ERRCODE, so only a failing check could. -/
theorem callbackPointPermitsOnlyItsCommands : Obligations.CallbackPointPermitsOnlyItsCommands := by
  refine fun i s hwf ha => ⟨fun hi => ?refused, fun hi hcode t ht => ?permitted⟩
  case refused =>
    have hne : i ≠ .hostDone := by rintro rfl; cases hi
    rw [exec_of_ne_hostDone hne, commandChecks_of_not_permitted hwf ha hi]
  case permitted =>
    rw [eq_guarded_of_exec ht]
    rcases guarded_cases (commandChecks i s) s (commandEffect i s) with ⟨-, he⟩ | ⟨pre, e, post, hcs, -, he⟩ <;> rw [he]
    · rw [commandEffect_frame]
      exact hcode
    · have hchecked : e ≠ .callbackViolation := commandChecks_of_permitted ha hi (true, e) (by simp [hcs]) rfl
      rw [State.raise_errcode]
      split
      · exact hcode
      · exact hchecked

end Sys2Proof.Machine
end

section
/-! The 3×3 neighbourhood as the Chebyshev ball of radius 1 (45_morphology.md R200), and what of a block of cells it covers. -/

namespace Sys2Proof.Machine

theorem near_self (p : Coord) : near p p := by omega

/-- The nine cells of the neighbourhood, numbered row by row (45_morphology.md R201). -/
theorem neighbourhood_eq_map_range (p : Coord) :
    neighbourhood p = (List.range 9).map fun n => ⟨p.x + n % 3 - 1, p.y + n / 3 - 1⟩ := rfl

/-- The bounds on `x` and `y` keep `x - 1` and `y - 1` from being truncated. -/
theorem mem_neighbourhood_iff {p q : Coord} (hx : 1 ≤ p.x) (hy : 1 ≤ p.y) : q ∈ neighbourhood p ↔ near p q := by
  rw [neighbourhood_eq_map_range, List.mem_map]
  constructor
  · rintro ⟨n, hn, rfl⟩
    rw [List.mem_range] at hn
    refine ⟨?_, ?_, ?_, ?_⟩ <;> dsimp only <;> omega
  · intro hnear
    obtain ⟨i, hi, hqx⟩ : ∃ i ≤ 2, p.x + i - 1 = q.x := ⟨q.x + 1 - p.x, by omega, by omega⟩
    obtain ⟨j, hj, hqy⟩ : ∃ j ≤ 2, p.y + j - 1 = q.y := ⟨q.y + 1 - p.y, by omega, by omega⟩
    have hmod : (3 * j + i) % 3 = i := by omega
    have hdiv : (3 * j + i) / 3 = j := by omega
    exact ⟨3 * j + i, List.mem_range.mpr (by omega), by rw [hmod, hdiv, hqx, hqy]⟩

/-- A neighbourhood as the closed forms R209 and R211 name its cells. -/
theorem forall_near_iff {p : Coord} {P : Coord → Prop} :
    (∀ x ≤ p.x + 1, ∀ y ≤ p.y + 1, near p ⟨x, y⟩ → P ⟨x, y⟩) ↔ ∀ q, near p q → P q :=
  ⟨fun h q hq@⟨_, hx, _, hy⟩ => h q.x hx q.y hy hq, fun h _ _ _ _ hq => h _ hq⟩

theorem exists_near_iff {p : Coord} {P : Coord → Prop} :
    (∃ x ≤ p.x + 1, ∃ y ≤ p.y + 1, near p ⟨x, y⟩ ∧ P ⟨x, y⟩) ↔ ∃ q, near p q ∧ P q :=
  ⟨fun ⟨_, _, _, _, hq⟩ => ⟨_, hq⟩, fun ⟨q, hq@⟨_, hx, _, hy⟩, hP⟩ => ⟨q.x, hx, q.y, hy, hq, hP⟩⟩

/-- `p` lies in the block of cells with these first and last columns and rows (45_morphology.md R212). -/
abbrev InBlock (x₀ x₁ y₀ y₁ : Nat) (p : Coord) : Prop := x₀ ≤ p.x ∧ p.x ≤ x₁ ∧ y₀ ≤ p.y ∧ p.y ≤ y₁

/-- The block covers the neighbourhood of `p` when `p` lies within its outer ring: two opposite corners decide it. -/
theorem forall_near_inBlock_iff {x₀ x₁ y₀ y₁ : Nat} (hx : 1 ≤ x₀) (hy : 1 ≤ y₀) {p : Coord} :
    (∀ q, near p q → InBlock x₀ x₁ y₀ y₁ q) ↔ x₀ < p.x ∧ p.x < x₁ ∧ y₀ < p.y ∧ p.y < y₁ := by
  constructor
  · intro h
    have hfirst := h ⟨p.x - 1, p.y - 1⟩ (by dsimp only [near]; omega)
    have hlast := h ⟨p.x + 1, p.y + 1⟩ (by dsimp only [near]; omega)
    dsimp only [InBlock] at hfirst hlast
    omega
  · intro h q hq
    omega

/-- The block meets the neighbourhood of `p` when `p` lies in the block or the ring around it: the nearest cell decides it. -/
theorem exists_near_inBlock_iff {x₀ x₁ y₀ y₁ : Nat} (hx : x₀ ≤ x₁) (hy : y₀ ≤ y₁) {p : Coord} :
    (∃ q, near p q ∧ InBlock x₀ x₁ y₀ y₁ q) ↔ x₀ ≤ p.x + 1 ∧ p.x ≤ x₁ + 1 ∧ y₀ ≤ p.y + 1 ∧ p.y ≤ y₁ + 1 := by
  constructor
  · rintro ⟨q, hq, hblock⟩
    omega
  · intro h
    refine ⟨⟨max x₀ (min p.x x₁), max y₀ (min p.y y₁)⟩, ?_, ?_⟩ <;> dsimp only [near, InBlock] <;> omega

end Sys2Proof.Machine
end

section
/-! The Mask plane of a machine: visited and interior cells, and what the counts of 45_morphology.md R202 over it say. -/

namespace Sys2Proof.Machine

theorem State.interior_iff_visits {s : State} {p : Coord} : s.interior p = true ↔ s.visits 1 p :=
  State.mem_visited_one.symm.trans State.mem_visited

theorem State.inImage_of_visits {s : State} {b : Nat} {p : Coord} (hp : s.visits b p) : s.inImage p = true :=
  State.inImage_of_mem_visited (State.mem_visited.mpr hp)

/-- A cell that a border visits lies in the image. -/
theorem State.visits_zero {s : State} {b : Nat} {p : Coord} (hp : s.visits b p) : s.visits 0 p := by omega

/-- The neighbourhood of an interior cell lies in the image (R200). -/
theorem State.visits_of_near {s : State} {p q : Coord} (hp : s.visits 1 p) (hq : near p q) : s.visits 0 q := by omega

theorem State.liveMask_eq_mask (s : State) (p : Coord) : s.liveMask p = s.mask p := maskOf_eq_extract (s.pix p)

/-- A cell is its colour and its Mask (20_memory.md R52). -/
theorem State.pix_eq_of_colour_mask {s u : State} {p : Coord} (hc : u.colour p = s.colour p)
    (hm : u.mask p = s.mask p) : u.pix p = s.pix p :=
  ((eq_append_iff (m := 24) (n := 8) (u.pix p) (s.colour p) (s.mask p)).mpr ⟨hc, hm⟩).trans
    ((eq_append_iff (m := 24) (n := 8) (s.pix p) (s.colour p) (s.mask p)).mpr ⟨rfl, rfl⟩).symm

/-- In the snapshot taken of a machine, the neighbourhood of an interior cell reads as its Masks (R206). -/
theorem State.snapMask_near {s : State} {p q : Coord} (hp : s.visits 1 p) (hq : near p q) :
    s.takeSnapshot.snapMask q = s.mask q := by
  rw [State.snapMask_takeSnapshot (State.inImage_of_visits (State.visits_of_near hp hq)), State.liveMask_eq_mask]

/-- ERODE's count is 9 when the whole neighbourhood is target or SENTINEL (R208). -/
theorem State.snapshotCount_eq_nine {s : State} {p : Coord} {t u : Byte} (hp : s.visits 1 p) :
    neighbourCount s.takeSnapshot.snapMask p t u = 9 ↔ ∀ q, near p q → s.mask q = t ∨ s.mask q = u := by
  obtain ⟨hx, -, hy, -⟩ := id hp
  rw [neighbourCount_eq_nine]
  refine forall_congr' fun q => ?_
  rw [mem_neighbourhood_iff hx hy]
  exact forall_congr' fun hq => by rw [State.snapMask_near hp hq]

/-- DILATE's count is positive when some cell of the neighbourhood is target (R210). -/
theorem State.snapshotCount_pos {s : State} {p : Coord} {t : Byte} (hp : s.visits 1 p) :
    0 < neighbourCount s.takeSnapshot.snapMask p t t ↔ ∃ q, near p q ∧ s.mask q = t := by
  obtain ⟨hx, -, hy, -⟩ := id hp
  rw [neighbourCount_pos]
  refine exists_congr fun q => ?_
  rw [mem_neighbourhood_iff hx hy, or_self]
  exact and_congr_right fun hq => by rw [State.snapMask_near hp hq]

end Sys2Proof.Machine
end

section
/-! CHECKADJ (45_morphology.md R201, R202). -/

namespace Sys2Proof.Machine

theorem decode_checkadj_reserved {w : Word} (ho : opcField w = 0x30#8) (hk : kernelField w ≠ 0) :
    decode w = .error .reservedBits := by
  rw [decode_of_opcode (i := .checkadj 0 0) ho]
  exact if_neg hk

theorem State.interiorCheck_of_interior {s : State} {p : Coord} (h : s.visits 1 p) :
    s.interiorCheck p = (false, .coordRange) := by
  rw [State.interiorCheck, State.interior_iff_visits.mpr h, Bool.not_true]

theorem State.interiorCheck_of_not_interior {s : State} {p : Coord} (h : ¬ s.visits 1 p) :
    s.interiorCheck p = (true, .coordRange) := by
  rw [State.interiorCheck, Bool.eq_false_iff.mpr (mt State.interior_iff_visits.mp h), Bool.not_false]

/-- The count over the live Masks, cell by cell (R202). -/
theorem State.neighbourCount_liveMask (s : State) (p : Coord) (t u : Byte) :
    neighbourCount s.liveMask p t u = ((List.range 9).filter fun n =>
      decide (s.mask ⟨p.x + n % 3 - 1, p.y + n / 3 - 1⟩ = t ∨ s.mask ⟨p.x + n % 3 - 1, p.y + n / 3 - 1⟩ = u)).length := by
  rw [neighbourCount, neighbourhood_eq_map_range, List.countP_map, List.countP_eq_length_filter]
  simp only [Function.comp_def, State.liveMask_eq_mask]

/-- COUNT's four bits hold every count (R202). -/
theorem toNat_ofNat_neighbourCount (plane : Coord → Byte) (p : Coord) (t u : Byte) :
    (BitVec.ofNat 4 (neighbourCount plane p t u)).toNat = neighbourCount plane p t u := by
  have hle := neighbourCount_le plane p t u
  rw [BitVec.toNat_ofNat]
  omega

/-- Settles O40: the first failing check decides; with none, the count of the nine live Masks fits COUNT. -/
theorem checkadjCountsTheNeighbourhood : Obligations.CheckadjCountsTheNeighbourhood := by
  refine ⟨fun tgt sec => rfl, fun w => decode_checkadj_reserved, fun tgt sec s => ?_⟩
  rw [exec_of_ne_hostDone (i := .checkadj tgt sec) nofun, commandChecks]
  refine ⟨fun hb => ?blocked, fun hf hc => ?noImage, fun hf hc hout => ?edge, fun hf hc hin =>
    ⟨commandEffect (.checkadj tgt sec) s, ?effect, rfl, ?count⟩⟩
  case blocked => simp [State.borrowCheck_of_readBlocked hb]
  case noImage => simp [State.borrowCheck_of_not_readBlocked hf, State.imageCheck_of_no_image hc]
  case edge =>
    have hcheck : s.interiorCheck s.coord = (true, .coordRange) := State.interiorCheck_of_not_interior hout
    simp [State.borrowCheck_of_not_readBlocked hf, State.imageCheck_of_constructed hc, hcheck]
  case effect =>
    have hcheck : s.interiorCheck s.coord = (false, .coordRange) := State.interiorCheck_of_interior hin
    simp [State.borrowCheck_of_not_readBlocked hf, State.imageCheck_of_constructed hc, hcheck]
  case count => exact (toNat_ofNat_neighbourCount _ _ _ _).trans (s.neighbourCount_liveMask s.coord tgt sec)

end Sys2Proof.Machine
end

section
/-! ERODE and DILATE are one operation (45_morphology.md R206 to R208, R210): after the same checks, the Masks are copied to the
snapshot, pass 1 marks the interior cells that its condition on the snapshot names, and pass 2 resolves every mark. -/

namespace Sys2Proof.Machine

/-! ### The checks -/

/-- `i` is ERODE or DILATE, and these are its operand bytes. -/
abbrev MorphologyCommand (i : Instr) (operands : List Byte) : Prop :=
  (∃ t d, i = .erode t d ∧ operands = [t, d]) ∨ (∃ t, i = .dilate t ∧ operands = [t])

theorem exec_morphology {i : Instr} {operands : List Byte} (hi : MorphologyCommand i operands) (s : State) :
    exec i s = .next (guarded
      [s.busyCheck, s.imageCheck, (decide (0xFF#8 ∈ operands), .sentinelCollision)] s (commandEffect i s)) := by
  rcases hi with ⟨t, d, rfl, rfl⟩ | ⟨t, rfl, rfl⟩
  · have hmem : 0xFF#8 ∈ [t, d] ↔ t = sentinel ∨ d = sentinel := by
      rw [List.mem_cons, List.mem_singleton]
      exact or_congr eq_comm eq_comm
    rw [exec_of_ne_hostDone (i := .erode t d) nofun, commandChecks, decide_eq_decide.mpr hmem]
  · have hmem : 0xFF#8 ∈ [t] ↔ t = sentinel := List.mem_singleton.trans eq_comm
    rw [exec_of_ne_hostDone (i := .dilate t) nofun, commandChecks, decide_eq_decide.mpr hmem]

/-- Settles O41. -/
theorem erodeAndDilateCheckInOrder : Obligations.ErodeAndDilateCheckInOrder := by
  intro i operands s hi
  rw [exec_morphology hi]
  refine ⟨fun ha => ?busy, fun ha hc => ?noImage, fun ha hc hop => ?collision⟩
  case busy => simp [State.busyCheck_of_active ha]
  case noImage => simp [State.busyCheck_of_idle ha, State.imageCheck_of_no_image hc]
  case collision => simp [State.busyCheck_of_idle ha, State.imageCheck_of_constructed hc, hop]

theorem exec_morphology_of_ready {i : Instr} {operands : List Byte} (hi : MorphologyCommand i operands) {s : State}
    (ha : s.trav.active = false) (hc : s.constructed = true) (hop : 0xFF#8 ∉ operands) :
    exec i s = .next (commandEffect i s) := by
  rw [exec_morphology hi]
  simp [State.busyCheck_of_idle ha, State.imageCheck_of_constructed hc, hop]

theorem exec_erode_of_ready {s : State} {t d : Byte} (ha : s.trav.active = false) (hc : s.constructed = true)
    (ht : t ≠ 0xFF#8) (hd : d ≠ 0xFF#8) : exec (.erode t d) s = .next (commandEffect (.erode t d) s) :=
  exec_morphology_of_ready (.inl ⟨t, d, rfl, rfl⟩) ha hc (by simp [ht.symm, hd.symm])

theorem exec_dilate_of_ready {s : State} {t : Byte} (ha : s.trav.active = false) (hc : s.constructed = true)
    (ht : t ≠ 0xFF#8) : exec (.dilate t) s = .next (commandEffect (.dilate t) s) :=
  exec_morphology_of_ready (.inr ⟨t, rfl, rfl⟩) ha hc (by simp [ht.symm])

/-! ### The snapshot and the two passes -/

section
variable (marked : Coord → Prop) [DecidablePred marked]

/-- Pass 1 of either command: SENTINEL into the Mask of every interior cell that is marked (R208, R210). -/
def State.markCells (s : State) : State :=
  s.mapCells (fun p w => if marked p then withMask w sentinel else w) (s.visited 1)

/-- The writes of either command: the snapshot, pass 1, and pass 2 with the byte `v` (R208, R210). -/
def State.twoPass (v : Byte) (s : State) : State := (s.takeSnapshot.markCells marked).resolveSentinel v

end

/-- ERODE marks the cells whose neighbourhood is not all target or SENTINEL, and resolves with DEF (R208). -/
theorem commandEffect_erode (t d : Byte) (s : State) : commandEffect (.erode t d) s =
    s.twoPass (fun p => neighbourCount s.takeSnapshot.snapMask p t sentinel ≠ 9) d := rfl

/-- DILATE marks the cells that are not target but have a target neighbour, and resolves with TGT (R210). -/
theorem commandEffect_dilate (t : Byte) (s : State) : commandEffect (.dilate t) s =
    s.twoPass (fun p => s.takeSnapshot.snapMask p ≠ t ∧ 0 < neighbourCount s.takeSnapshot.snapMask p t t) t := rfl

/-- A traversal that keeps each cell's colour keeps the image's. -/
theorem State.colour_mapCells {f : Coord → Word → Word} (hf : ∀ p w, (f p w).extractLsb' 8 24 = w.extractLsb' 8 24)
    {s : State} {p : Coord} (hp : s.visits 0 p) (b : Nat) : (s.mapCells f (s.visited b)).colour p = s.colour p := by
  unfold State.colour
  by_cases hmem : p ∈ s.visited b
  · rw [State.pix_mapCells_of_mem f hmem, hf]
  · rw [State.pix_mapCells_of_not_mem f (State.inImage_of_visits hp) hmem]

/-- The bytes from the end of the image on stay: every visited cell's word lies before them. -/
theorem State.readByte_mapCells_of_outside (f : Coord → Word → Word) {s : State} {a : Nat} (b : Nat)
    (ha : 4 * (s.width.toNat * s.height.toNat) ≤ a) :
    (s.mapCells f (s.visited b)).store.readByte a = s.store.readByte a := by
  refine State.readByte_mapCells_of_not_mem f fun p hp hidx => ?_
  have hlt := State.cellIndex_lt_area (State.inImage_of_mem_visited hp)
  omega

theorem colour_ite_withMask (c : Prop) [Decidable c] (w : Word) (v : Byte) :
    (if c then withMask w v else w).extractLsb' 8 24 = w.extractLsb' 8 24 := by
  split
  · exact colour_withMask w v
  · rfl

/-- Pass 2 replaces SENTINEL and no other Mask. -/
theorem State.mask_resolveSentinel {s : State} {p : Coord} (hp : s.visits 0 p) (v : Byte) :
    (s.resolveSentinel v).mask p = if s.mask p = 0xFF#8 then v else s.mask p := by
  rw [State.mask, State.resolveSentinel, State.pix_mapCells_of_mem _ (State.mem_visited.mpr hp), State.mask,
    ← maskOf_eq_extract, ← maskOf_eq_extract, apply_ite maskOf, maskOf_withMask, sentinel]

section
variable {marked : Coord → Prop} [DecidablePred marked] {s : State} {p : Coord}

theorem State.mask_markCells_of_marked (hp : s.visits 1 p) (hm : marked p) : (s.markCells marked).mask p = 0xFF#8 := by
  rw [State.mask, State.markCells, State.pix_mapCells_of_mem _ (State.mem_visited.mpr hp), if_pos hm,
    ← maskOf_eq_extract, maskOf_withMask, sentinel]

theorem State.pix_markCells_of_not_marked (hp : s.visits 0 p) (hm : s.visits 1 p → ¬ marked p) :
    (s.markCells marked).pix p = s.pix p := by
  unfold State.markCells
  by_cases hmem : p ∈ s.visited 1
  · rw [State.pix_mapCells_of_mem _ hmem, if_neg (hm (State.mem_visited.mp hmem))]
  · exact State.pix_mapCells_of_not_mem _ (State.inImage_of_visits hp) hmem

/-- A marked cell ends with pass 2's byte. -/
theorem State.mask_twoPass_of_marked (hp : s.visits 1 p) (hm : marked p) (v : Byte) :
    (s.twoPass marked v).mask p = v := by
  have hmark : (s.takeSnapshot.markCells marked).mask p = 0xFF#8 := State.mask_markCells_of_marked hp hm
  rw [State.twoPass, State.mask_resolveSentinel (s := s.takeSnapshot.markCells marked) (State.visits_zero hp), if_pos hmark]

/-- A cell that is not marked keeps its Mask, unless that was SENTINEL already. -/
theorem State.mask_twoPass_of_not_marked (hp : s.visits 0 p) (hm : s.visits 1 p → ¬ marked p) (v : Byte) :
    (s.twoPass marked v).mask p = if s.mask p = 0xFF#8 then v else s.mask p := by
  have hkeep : (s.takeSnapshot.markCells marked).pix p = s.pix p := State.pix_markCells_of_not_marked hp hm
  rw [State.twoPass, State.mask_resolveSentinel (s := s.takeSnapshot.markCells marked) hp, State.mask, hkeep]

variable (marked)

/-- Either pass writes Masks only (R207). -/
theorem State.colour_twoPass (hp : s.visits 0 p) (v : Byte) : (s.twoPass marked v).colour p = s.colour p :=
  calc (s.twoPass marked v).colour p
      = (s.takeSnapshot.markCells marked).colour p :=
        State.colour_mapCells (s := s.takeSnapshot.markCells marked) (fun _ _ => colour_ite_withMask _ _ _) hp 0
    _ = s.takeSnapshot.colour p :=
        State.colour_mapCells (s := s.takeSnapshot) (fun _ _ => colour_ite_withMask _ _ _) hp 1

/-- The snapshot holds every cell's old Mask (R206), and neither pass writes it. -/
theorem State.snap_twoPass (hp : s.visits 0 p) (v : Byte) :
    (s.twoPass marked v).snap.readByte (s.cellIndex p) = s.mask p :=
  (State.snapMask_takeSnapshot (State.inImage_of_visits hp)).trans (s.liveMask_eq_mask p)

theorem State.store_twoPass_of_outside {a : Nat} (v : Byte) (ha : 4 * (s.width.toNat * s.height.toNat) ≤ a) :
    (s.twoPass marked v).store.readByte a = s.store.readByte a :=
  calc (s.twoPass marked v).store.readByte a
      = (s.takeSnapshot.markCells marked).store.readByte a :=
        State.readByte_mapCells_of_outside (s := s.takeSnapshot.markCells marked) _ 0 ha
    _ = s.takeSnapshot.store.readByte a := State.readByte_mapCells_of_outside (s := s.takeSnapshot) _ 1 ha

theorem State.snap_twoPass_of_outside {a : Nat} (v : Byte) (ha : s.width.toNat * s.height.toNat ≤ a) :
    (s.twoPass marked v).snap.readByte a = s.snap.readByte a := by
  refine Memory.readByte_copyMasks_of_not_mem s.liveMask (fun p hp hidx => ?_) s.snap
  have hlt := State.cellIndex_lt_area (State.inImage_of_mem_visited hp)
  exact absurd hidx (hlt.trans_le ha).ne

/-- No mark outlives pass 2 (R212 property 1). -/
theorem State.mask_twoPass_ne_sentinel {v : Byte} (hp : s.visits 0 p) (hv : v ≠ 0xFF#8) :
    (s.twoPass marked v).mask p ≠ 0xFF#8 := by
  rw [State.twoPass, State.mask_resolveSentinel (s := s.takeSnapshot.markCells marked) hp]
  split
  · exact hv
  · assumption

end

/-- Settles O44. -/
theorem sentinelNeverLeaks : Obligations.SentinelNeverLeaks := by
  rintro i s u (⟨t, d, rfl, ht, hd⟩ | ⟨t, rfl, ht⟩) ha hc hexec p hp
  · obtain rfl := Host.Outcome.next.inj ((exec_erode_of_ready ha hc ht hd).symm.trans hexec)
    rw [commandEffect_erode]
    exact State.mask_twoPass_ne_sentinel _ hp hd
  · obtain rfl := Host.Outcome.next.inj ((exec_dilate_of_ready ha hc ht).symm.trans hexec)
    rw [commandEffect_dilate]
    exact State.mask_twoPass_ne_sentinel _ hp ht

end Sys2Proof.Machine
end

section
/-! The closed forms of ERODE and DILATE, one equation per case (45_morphology.md R209, R211). -/

namespace Sys2Proof.Machine

variable {s : State} {p : Coord} {t d : Byte}

/-! ### ERODE (R209) -/

/-- An interior cell that is not target in a neighbourhood of target or SENTINEL ends as the default: pass 1 marks it, or it
was SENTINEL itself. -/
theorem State.mask_erode_taken (hp : s.visits 1 p)
    (h : ¬ (s.mask p = t ∧ ∀ q, near p q → s.mask q = t ∨ s.mask q = 0xFF#8)) :
    (commandEffect (.erode t d) s).mask p = d := by
  rw [commandEffect_erode]
  by_cases hall : ∀ q, near p q → s.mask q = t ∨ s.mask q = 0xFF#8
  · have hself : s.mask p = 0xFF#8 := (hall p (near_self p)).resolve_left fun ht => h ⟨ht, hall⟩
    rw [State.mask_twoPass_of_not_marked (State.visits_zero hp)
      fun _ => not_not_intro ((State.snapshotCount_eq_nine hp).mpr hall), if_pos hself]
  · exact State.mask_twoPass_of_marked hp (mt (State.snapshotCount_eq_nine hp).mp hall) d

theorem State.mask_erode_kept (ht : t ≠ 0xFF#8) (hp : s.visits 1 p) (hself : s.mask p = t)
    (hall : ∀ q, near p q → s.mask q = t ∨ s.mask q = 0xFF#8) : (commandEffect (.erode t d) s).mask p = t := by
  rw [commandEffect_erode, State.mask_twoPass_of_not_marked (State.visits_zero hp)
    fun _ => not_not_intro ((State.snapshotCount_eq_nine hp).mpr hall), hself, if_neg ht]

theorem State.mask_erode_edge (hp : s.visits 0 p) (hedge : ¬ s.visits 1 p) :
    (commandEffect (.erode t d) s).mask p = if s.mask p = 0xFF#8 then d else s.mask p := by
  rw [commandEffect_erode, State.mask_twoPass_of_not_marked hp fun hint => absurd hint hedge]

/-- Settles O42. -/
theorem erodeIsItsClosedForm : Obligations.ErodeIsItsClosedForm := by
  intro t d s ha hc ht hd
  refine ⟨commandEffect (.erode t d) s, exec_erode_of_ready ha hc ht hd, rfl,
    fun p hp => ⟨State.colour_twoPass _ hp d, State.snap_twoPass _ hp d, ?mask⟩,
    fun a hout => State.store_twoPass_of_outside _ d hout, fun a hout => State.snap_twoPass_of_outside _ d hout⟩
  have hall := forall_near_iff (p := p) (P := fun q => s.mask q = t ∨ s.mask q = 0xFF#8)
  by_cases hint : s.visits 1 p
  · rw [if_pos hint]
    split
    next hkept =>
      obtain ⟨hself, hnear⟩ := hkept
      exact State.mask_erode_kept ht hint hself (hall.mp hnear)
    next htaken => exact State.mask_erode_taken hint (mt (and_congr_right' hall).mpr htaken)
  · rw [if_neg hint, State.mask_erode_edge hp hint]

/-! ### DILATE (R211) -/

/-- An interior cell ends as target when its neighbourhood has a target cell or it is SENTINEL itself: pass 1 marks it, or it
was target already, or pass 2 resolves it. -/
theorem State.mask_dilate_grown (hp : s.visits 1 p) (h : s.mask p = 0xFF#8 ∨ ∃ q, near p q ∧ s.mask q = t) :
    (commandEffect (.dilate t) s).mask p = t := by
  rw [commandEffect_dilate]
  have hsnap := State.snapMask_near hp (near_self p)
  by_cases hmark : s.mask p ≠ t ∧ ∃ q, near p q ∧ s.mask q = t
  · refine State.mask_twoPass_of_marked hp ?_ t
    rwa [hsnap, State.snapshotCount_pos hp]
  · rw [State.mask_twoPass_of_not_marked (State.visits_zero hp)
      fun _ => by rwa [hsnap, State.snapshotCount_pos hp]]
    split
    · rfl
    next hne => exact by_contra fun ht => hmark ⟨ht, h.resolve_left hne⟩

theorem State.mask_dilate_kept (hp : s.visits 1 p) (h : ¬ (s.mask p = 0xFF#8 ∨ ∃ q, near p q ∧ s.mask q = t)) :
    (commandEffect (.dilate t) s).mask p = s.mask p := by
  obtain ⟨hself, hnone⟩ := not_or.mp h
  rw [commandEffect_dilate, State.mask_twoPass_of_not_marked (State.visits_zero hp)
    fun _ ⟨_, hcount⟩ => hnone ((State.snapshotCount_pos hp).mp hcount), if_neg hself]

theorem State.mask_dilate_edge (hp : s.visits 0 p) (hedge : ¬ s.visits 1 p) :
    (commandEffect (.dilate t) s).mask p = if s.mask p = 0xFF#8 then t else s.mask p := by
  rw [commandEffect_dilate, State.mask_twoPass_of_not_marked hp fun hint => absurd hint hedge]

/-- R211 names the cell itself and its other neighbours apart. -/
theorem State.exists_near_target_iff :
    (s.mask p = t ∨ s.mask p = 0xFF#8 ∨ ∃ q, near p q ∧ q ≠ p ∧ s.mask q = t) ↔
      s.mask p = 0xFF#8 ∨ ∃ q, near p q ∧ s.mask q = t := by
  constructor
  · rintro (hself | hsentinel | ⟨q, hq, -, ht⟩)
    · exact .inr ⟨p, near_self p, hself⟩
    · exact .inl hsentinel
    · exact .inr ⟨q, hq, ht⟩
  · rintro (hsentinel | ⟨q, hq, ht⟩)
    · exact .inr (.inl hsentinel)
    · by_cases hqp : q = p
      · exact .inl (hqp ▸ ht)
      · exact .inr (.inr ⟨q, hq, hqp, ht⟩)

/-- Settles O43. -/
theorem dilateIsItsClosedForm : Obligations.DilateIsItsClosedForm := by
  intro t s ha hc ht
  refine ⟨commandEffect (.dilate t) s, exec_dilate_of_ready ha hc ht, rfl,
    fun p hp => ⟨State.colour_twoPass _ hp t, State.snap_twoPass _ hp t, ?mask⟩,
    fun a hout => State.store_twoPass_of_outside _ t hout, fun a hout => State.snap_twoPass_of_outside _ t hout⟩
  have hgrown := (or_congr_right (or_congr_right (exists_near_iff (P := fun q => q ≠ p ∧ s.mask q = t)))).trans
    (State.exists_near_target_iff (s := s) (p := p) (t := t))
  by_cases hint : s.visits 1 p
  · rw [if_pos hint]
    split
    next h => exact State.mask_dilate_grown hint (hgrown.mp h)
    next h => exact State.mask_dilate_kept hint (mt hgrown.mpr h)
  · rw [if_neg hint, State.mask_dilate_edge hp hint]

end Sys2Proof.Machine
end

section
/-! The properties of one ERODE and one DILATE (45_morphology.md R212), from their closed forms. -/

namespace Sys2Proof.Machine

/-- Settles O45. -/
theorem erodeKeepsUniformRegions : Obligations.ErodeKeepsUniformRegions := by
  intro t d s u ha hc ht hd hexec
  obtain rfl := Host.Outcome.next.inj ((exec_erode_of_ready ha hc ht hd).symm.trans hexec)
  refine ⟨fun p hp hall => ?region, fun p hp hedge hne => ?edge⟩
  case region =>
    have hself : s.mask p = t := hall p (near_self p)
    refine State.pix_eq_of_colour_mask (State.colour_twoPass _ (State.visits_zero hp) d) ?_
    rw [State.mask_erode_kept ht hp hself fun q hq => .inl (hall q hq), hself]
  case edge =>
    refine State.pix_eq_of_colour_mask (State.colour_twoPass _ hp d) ?_
    rw [State.mask_erode_edge hp hedge, if_neg hne]

section
variable {x₀ x₁ y₀ y₁ : Nat} {s : State} {p : Coord} {t d : Byte}

/-- A solid block of `t`, surrounded by `d` (R212 properties 3 and 4). -/
abbrev State.SolidBlock (s : State) (x₀ x₁ y₀ y₁ : Nat) (t d : Byte) : Prop :=
  ∀ p, s.visits 0 p → s.mask p = if InBlock x₀ x₁ y₀ y₁ p then t else d

theorem State.SolidBlock.mask_eq_iff (h : s.SolidBlock x₀ x₁ y₀ y₁ t d) (htd : t ≠ d) (hp : s.visits 0 p) :
    s.mask p = t ↔ InBlock x₀ x₁ y₀ y₁ p := by
  rw [h p hp]
  exact ite_eq_left_iff.trans (not_imp_comm.trans (by simp [htd.symm]))

theorem State.SolidBlock.mask_eq_of_not_inBlock (h : s.SolidBlock x₀ x₁ y₀ y₁ t d) (hp : s.visits 0 p)
    (hout : ¬ InBlock x₀ x₁ y₀ y₁ p) : s.mask p = d := (h p hp).trans (if_neg hout)

theorem State.SolidBlock.mask_ne_sentinel (h : s.SolidBlock x₀ x₁ y₀ y₁ t d) (ht : t ≠ 0xFF#8) (hd : d ≠ 0xFF#8)
    (hp : s.visits 0 p) : s.mask p ≠ 0xFF#8 := by
  rw [h p hp]
  split
  · exact ht
  · exact hd

end

/-- Settles O46: an interior cell keeps the target exactly when the block covers its neighbourhood. -/
theorem erodeShrinksABlockByItsRing : Obligations.ErodeShrinksABlockByItsRing := by
  intro t d x₀ x₁ y₀ y₁ s u ha hc ht hd htd hx₀ hx₁ hy₀ hy₁ hblock hexec p hp
  replace hblock : s.SolidBlock x₀ x₁ y₀ y₁ t d := hblock
  obtain rfl := Host.Outcome.next.inj ((exec_erode_of_ready ha hc ht hd).symm.trans hexec)
  by_cases hint : s.visits 1 p
  · have hinner : (s.mask p = t ∧ ∀ q, near p q → s.mask q = t ∨ s.mask q = 0xFF#8) ↔
        ∀ q, near p q → InBlock x₀ x₁ y₀ y₁ q := by
      have hcell : ∀ q, near p q → (s.mask q = t ∨ s.mask q = 0xFF#8 ↔ InBlock x₀ x₁ y₀ y₁ q) := fun q hq => by
        have hq0 : s.visits 0 q := State.visits_of_near hint hq
        rw [or_iff_left (hblock.mask_ne_sentinel ht hd hq0), hblock.mask_eq_iff htd hq0]
      rw [forall₂_congr hcell]
      exact and_iff_right_of_imp fun hall => (hblock.mask_eq_iff htd hp).mpr (hall p (near_self p))
    rw [forall_near_inBlock_iff hx₀ hy₀] at hinner
    split
    next hin =>
      obtain ⟨hself, hall⟩ := hinner.mpr hin
      exact State.mask_erode_kept ht hint hself hall
    next hout => exact State.mask_erode_taken hint (mt hinner.mp hout)
  · have hout : ¬ InBlock x₀ x₁ y₀ y₁ p := by omega
    rw [State.mask_erode_edge hp hint, if_neg (hblock.mask_ne_sentinel ht hd hp),
      hblock.mask_eq_of_not_inBlock hp hout, if_neg (by omega)]

/-- Settles O47: an interior cell becomes target exactly when the block meets its neighbourhood. -/
theorem dilateGrowsABlockByItsRing : Obligations.DilateGrowsABlockByItsRing := by
  intro t d x₀ x₁ y₀ y₁ s u ha hc ht hd htd hx₀ hx hx₁ hy₀ hy hy₁ hblock hexec p hp
  replace hblock : s.SolidBlock x₀ x₁ y₀ y₁ t d := hblock
  obtain rfl := Host.Outcome.next.inj ((exec_dilate_of_ready ha hc ht).symm.trans hexec)
  have hne : s.mask p ≠ 0xFF#8 := hblock.mask_ne_sentinel ht hd hp
  by_cases hint : s.visits 1 p
  · have hmeets : (∃ q, near p q ∧ s.mask q = t) ↔ ∃ q, near p q ∧ InBlock x₀ x₁ y₀ y₁ q :=
      exists_congr fun q => and_congr_right fun hq => hblock.mask_eq_iff htd (State.visits_of_near hint hq)
    rw [exists_near_inBlock_iff hx hy] at hmeets
    split
    next hring =>
      obtain ⟨-, hring⟩ := hring
      exact State.mask_dilate_grown hint (.inr (hmeets.mpr hring))
    next hfar =>
      have hnone : ¬ ∃ q, near p q ∧ s.mask q = t := fun hq => hfar ⟨hint, hmeets.mp hq⟩
      rw [State.mask_dilate_kept hint (not_or.mpr ⟨hne, hnone⟩)]
      exact hblock.mask_eq_of_not_inBlock hp fun hin => hfar ⟨hint, by omega⟩
  · have hout : ¬ InBlock x₀ x₁ y₀ y₁ p := by omega
    rw [State.mask_dilate_edge hp hint, if_neg hne, hblock.mask_eq_of_not_inBlock hp hout, if_neg fun ⟨hin, _⟩ => hint hin]

end Sys2Proof.Machine
end

section
/-! The error codes and the fault latch (60_exceptions.md R225, R226). -/

namespace Sys2Proof.Machine

/-- The error codes in the order of the table of R226. -/
def ErrCode.table : List ErrCode :=
  [.none, .illegalCommand, .badRegister, .regRange, .channelRange, .notConstructed, .alreadyConstructed, .dimLocked,
    .capacity, .coordRange, .sentinelCollision, .callbackViolation]

theorem ErrCode.mem_table (e : ErrCode) : e ∈ table := by
  cases e <;> decide

theorem ErrCode.map_code_table : table.map (fun e => e.code.toNat) = List.range 12 := by decide

/-- Settles O11: the table leaves no error code out, so the number of each is one of its twelve. -/
theorem errorCodesAreTheTable : Obligations.ErrorCodesAreTheTable := by
  refine ⟨ErrCode.map_code_table, fun e => List.mem_range.mp ?_⟩
  rw [← ErrCode.map_code_table]
  exact List.mem_map_of_mem e.mem_table

/-- Settles O12. -/
theorem raiseLatchesTheFirstViolation : Obligations.RaiseLatchesTheFirstViolation :=
  fun _ e => ⟨fun hf => State.raise_of_not_fault hf e, fun hf => State.raise_of_fault hf e⟩

end Sys2Proof.Machine
end

section
/-! Reset (70_reset_and_hazards.md R255): the state the machine starts in, and the reset event, which leads to that state but
for the constant CAPACITY and the host's own side. -/

namespace Sys2Proof.Machine

/-- STATUS is 0 at reset because each of its fields is. -/
theorem State.reset_statusWord : State.reset.statusWord = 0 :=
  BitVec.eq_of_toNat_eq State.reset.toNat_statusWord

theorem State.resetDevice_statusWord (s : State) : s.resetDevice.statusWord = State.reset.statusWord := rfl

/-- A machine in the state of reset is where the reset event leads it. -/
theorem State.resetDevice_reset : State.reset.resetDevice = State.reset := rfl

/-- Settles O15. -/
theorem resetStateIsTheSpecs : Obligations.ResetStateIsTheSpecs :=
  ⟨State.reset_statusWord, rfl, ⟨rfl, rfl, rfl, rfl⟩, ⟨rfl, rfl, rfl, rfl⟩, ⟨rfl, rfl, rfl⟩, rfl, rfl⟩

/-- Settles O14: the step is the reset of the device, whose registers are those of the state of reset. -/
theorem resetEventPutsTheResetState : Obligations.ResetEventPutsTheResetState := by
  intro s rest hb
  obtain ⟨hstatus, hword, ⟨hA, hB, hC, hM⟩, ⟨hx, hy, hwidth, hheight⟩, ⟨hcurX, hcurY, hcount⟩, -, htrav⟩ :=
    resetStateIsTheSpecs
  exact ⟨_, step_reset hb, (State.resetDevice_statusWord _).trans hstatus, rfl, rfl, rfl, rfl, hword, hA, hB, hC, hM,
    hx, hy, hwidth, hheight, hcurX, hcurY, hcount, rfl, htrav⟩

/-- Settles O56: the state of reset is where the reset event leads, and that meets the invariant from any state. -/
theorem resetMeetsTheInvariant : Obligations.ResetMeetsTheInvariant := by
  unfold Obligations.ResetMeetsTheInvariant
  rw [← State.resetDevice_reset]
  exact inv_resetDevice State.reset

end Sys2Proof.Machine
end
